-- ==== Sys2Proof/Word.lean ====
section
/-! DEFINITION. The word types that cross the host port (20_memory.md R60, R65). -/

namespace Sys2Proof

/-- A 32-bit word: a register of the `REG` space, a word of `P`, a command word (R31, R26, R80). -/
abbrev Word := BitVec 32

/-- A byte of the bitstream buffer (R29) or of the profile ROM (R30). -/
abbrev Byte := BitVec 8

/-- A symbol: a two's complement integer of `SYMW` = 16 bits (R8, R17, R23). -/
abbrev Symbol := BitVec 16

/-- The bit pattern of a binary64 datum (R9, R65): bit 63 the sign, bits 62:52 the exponent, bits 51:0 the fraction. -/
abbrev F64 := BitVec 64

/-- A weight (frequency) of `WW` = 64 bits, unsigned (R8, R27). -/
abbrev Weight := BitVec 64

/-- A block buffer of 64 elements, element `(r, c)` at index `8·r + c` (R12). -/
abbrev Block (α : Type) := Vector α 64

end Sys2Proof
end

