-- ==== Sys2Proof/Syntax.lean ====
section
/-! DEFINITION. The commands of the engine: one constructor for each row of spec/opcode_table.json (30_encoding.md R81, R87).
Operands are the declared counts of the format's fields, as numbers; `WellFormed` says which numbers a field can hold. -/

namespace Sys2Proof

/-- A command. Format N has no operand; format B declares a block shape `rows` by `cols` (R83); format Z declares the
length `n` of a sequence (R84) and names a 64-symbol block of `S` (R85). -/
inductive Instr where
  /-- `NOP`, format N, R220. -/
  | nop
  /-- `ABORT`, format N, R221. -/
  | abort
  /-- `DCT.FWD rows, cols`, format B, R107. -/
  | dctFwd (rows cols : Nat)
  /-- `DCT.INV rows, cols`, format B, R108. -/
  | dctInv (rows cols : Nat)
  /-- `QNT.FWD rows, cols`, format B, R125. -/
  | qntFwd (rows cols : Nat)
  /-- `QNT.INV rows, cols`, format B, R126. -/
  | qntInv (rows cols : Nat)
  /-- `ZZ.SER rows, cols`, format B, R144. -/
  | zzSer (rows cols : Nat)
  /-- `ZZ.DES n, blk`, format Z, R145. -/
  | zzDes (n blk : Nat)
  /-- `RLE.ENC`, format N, R163. -/
  | rleEnc
  /-- `RLE.DEC`, format N, R166. -/
  | rleDec
  /-- `HUF.BUILD`, format N, R194. -/
  | hufBuild
  /-- `HUF.PACK`, format N, R200. -/
  | hufPack
deriving DecidableEq, Repr

end Sys2Proof
end

