-- ==== Sys2Proof/WellFormed.lean ====
section
/-! DEFINITION. Which operands a command's fields can hold (30_encoding.md R83 to R85). -/

namespace Sys2Proof

/-- `rows` and `cols` are unsigned 4-bit fields (R83). -/
def shapeFits (rows cols : Nat) : Bool := decide (rows < 16) && decide (cols < 16)

/-- `n` is an unsigned 8-bit field and `blk` an unsigned 16-bit field (R84, R85). -/
def sliceFits (n blk : Nat) : Bool := decide (n < 256) && decide (blk < 65536)

/-- The operands of `i` fit the fields of its format (R81 to R85): `i` has a command word. -/
def Instr.wellFormed : Instr → Bool
  | .nop => true
  | .abort => true
  | .dctFwd rows cols => shapeFits rows cols
  | .dctInv rows cols => shapeFits rows cols
  | .qntFwd rows cols => shapeFits rows cols
  | .qntInv rows cols => shapeFits rows cols
  | .zzSer rows cols => shapeFits rows cols
  | .zzDes n blk => sliceFits n blk
  | .rleEnc => true
  | .rleDec => true
  | .hufBuild => true
  | .hufPack => true

end Sys2Proof
end

