-- ==== Sys2Proof/Decode.lean ====
section
/-! DEFINITION. Command words (30_encoding.md): the decoder, total on 32-bit words and rejecting by name, and after it the
encoder, written from R92. A command word is one whole 32-bit element of the port, so no byte order enters (R66, R80). -/

namespace Sys2Proof

/-- Why a word is an illegal command (R89). Both take the fault `IllegalCommand`. -/
inductive Illegal where
  /-- `op` is one of the 244 reserved values (R87). -/
  | reservedOpcode
  /-- `op` is assigned and a must-be-zero bit is set (R86). -/
  | mustBeZero
deriving DecidableEq, Repr

/-- The field `op`, bits 31:24 (R82). -/
def opField (w : Word) : Nat := (w.extractLsb' 24 8).toNat

/-- The field `rows`, bits 23:20 (R83). -/
def rowsField (w : Word) : Nat := (w.extractLsb' 20 4).toNat

/-- The field `cols`, bits 19:16 (R83). -/
def colsField (w : Word) : Nat := (w.extractLsb' 16 4).toNat

/-- The field `n`, bits 23:16 (R84). -/
def nField (w : Word) : Nat := (w.extractLsb' 16 8).toNat

/-- The field `blk`, bits 15:0 (R85). -/
def blkField (w : Word) : Nat := (w.extractLsb' 0 16).toNat

/-- A row of the match and mask table R88, with the reading of the fields of its format (R81). -/
structure OpRow where
  mask : Word
  pattern : Word
  build : Word → Instr

/-- `w` spells the command of row `r` when `w & mask = match` (R88). -/
def OpRow.spells (r : OpRow) (w : Word) : Bool := w &&& r.mask == r.pattern

/-- A row of format N: every bit is fixed (R81, R88). -/
def rowN (pattern : Word) (i : Instr) : OpRow := ⟨0xFFFFFFFF, pattern, fun _ => i⟩

/-- A row of format B: bits 15:0 must be zero (R81, R88). -/
def rowB (pattern : Word) (i : Nat → Nat → Instr) : OpRow :=
  ⟨0xFF00FFFF, pattern, fun w => i (rowsField w) (colsField w)⟩

/-- A row of format Z: only `op` is fixed (R81, R88). -/
def rowZ (pattern : Word) (i : Nat → Nat → Instr) : OpRow :=
  ⟨0xFF000000, pattern, fun w => i (nField w) (blkField w)⟩

/-- The table of R88. -/
def opRows : List OpRow :=
  [ rowN 0x00000000 .nop,
    rowN 0x01000000 .abort,
    rowB 0x10000000 .dctFwd,
    rowB 0x11000000 .dctInv,
    rowB 0x20000000 .qntFwd,
    rowB 0x21000000 .qntInv ] ++
  [ rowB 0x30000000 .zzSer,
    rowZ 0x31000000 .zzDes,
    rowN 0x40000000 .rleEnc,
    rowN 0x41000000 .rleDec,
    rowN 0x50000000 .hufBuild,
    rowN 0x51000000 .hufPack ]

/-- `op` is one of the twelve assigned opcodes (R87). -/
def opAssigned (op : Nat) : Bool :=
  [0x00, 0x01, 0x10, 0x11, 0x20, 0x21, 0x30, 0x31, 0x40, 0x41, 0x50, 0x51].contains op

/-- `Decode` of R91: the command of the row that `w` spells, or why there is none (R89). -/
def decode (w : Word) : Except Illegal Instr :=
  match opRows.find? (fun r => r.spells w) with
  | some r => .ok (r.build w)
  | none => .error (if opAssigned (opField w) then .mustBeZero else .reservedOpcode)

/-- The word of a format-N command: `op·2^24` (R92). -/
def wordN (op : Nat) : Word := BitVec.ofNat 32 (op * 2 ^ 24)

/-- The word of a format-B command: `op·2^24 + rows·2^20 + cols·2^16` (R92). -/
def wordB (op rows cols : Nat) : Word := BitVec.ofNat 32 (op * 2 ^ 24 + rows * 2 ^ 20 + cols * 2 ^ 16)

/-- The word of a format-Z command: `op·2^24 + n·2^16 + blk` (R92). -/
def wordZ (op n blk : Nat) : Word := BitVec.ofNat 32 (op * 2 ^ 24 + n * 2 ^ 16 + blk)

/-- The command word of a well-formed command (R87, R92). -/
def encode : Instr → Word
  | .nop => wordN 0x00
  | .abort => wordN 0x01
  | .dctFwd rows cols => wordB 0x10 rows cols
  | .dctInv rows cols => wordB 0x11 rows cols
  | .qntFwd rows cols => wordB 0x20 rows cols
  | .qntInv rows cols => wordB 0x21 rows cols
  | .zzSer rows cols => wordB 0x30 rows cols
  | .zzDes n blk => wordZ 0x31 n blk
  | .rleEnc => wordN 0x40
  | .rleDec => wordN 0x41
  | .hufBuild => wordN 0x50
  | .hufPack => wordN 0x51

/-- The command word that a table word stands for: bit 0 the least significant bit of the one 32-bit word, every bit
at or above `nbits` zero (R80: there is one length). -/
def tableWord (nbits w : Nat) : Word := BitVec.ofNat 32 (w % 2 ^ nbits)

/-- What the decoder reads from a word of spec/opcode_table.json. -/
def decodeTableWord (nbits w : Nat) : Option Instr :=
  match decode (tableWord nbits w) with
  | .ok i => some i
  | .error _ => none

end Sys2Proof
end

