-- ==== Sys2Proof/Machine/Float.lean ====
section
/-! DEFINITION. The numerics record `NUM` of 00_scope.md R9 at the value the spec gives it: IEEE 754 binary64, round to
nearest, ties to even, no fused operation, subnormals kept; and the rounding `rhaz` of R14. The operations compute the
exact result as an integer times a power of two and round it once (log 6). -/

namespace Sys2Proof.Machine

/-- A binary64 datum taken apart: `(−1)^neg · mant · 2^(exp − 1075)` when it is finite (R9). -/
inductive Datum where
  | nan
  | inf (neg : Bool)
  | fin (neg : Bool) (mant exp : Nat)
deriving DecidableEq, Repr

/-- The datum of a bit pattern: bit 63 the sign, bits 62:52 the exponent, bits 51:0 the fraction (R9, R65). -/
def datum (a : F64) : Datum :=
  let neg := a.getLsbD 63
  let e := a.toNat / 2 ^ 52 % 2048
  let frac := a.toNat % 2 ^ 52
  if e = 2047 then (if frac = 0 then .inf neg else .nan)
  else if e = 0 then .fin neg frac 1
  else .fin neg (frac + 2 ^ 52) e

/-- `isFinite` of R9. -/
def isFinite (a : F64) : Bool :=
  match datum a with
  | .fin _ _ _ => true
  | .inf _ => false
  | .nan => false

/-- The pattern is a NaN. -/
def isNaN (a : F64) : Bool :=
  match datum a with
  | .nan => true
  | .inf _ => false
  | .fin _ _ _ => false

/-- `toReal` of R9, scaled by 2^1075 so that the exact value of every finite datum is an integer; 0 where `toReal` is
not defined. -/
def scaledReal (a : F64) : Int :=
  match datum a with
  | .fin neg mant exp => if neg then -((mant * 2 ^ exp : Nat) : Int) else ((mant * 2 ^ exp : Nat) : Int)
  | .inf _ => 0
  | .nan => 0

/-- A magnitude below 2^63 with a sign bit above it. -/
def withSign (neg : Bool) (magnitude : Nat) : F64 := BitVec.ofNat 64 ((if neg then 2 ^ 63 else 0) + magnitude)

/-- The infinity of a sign (R9). -/
def infinity (neg : Bool) : F64 := withSign neg (2047 * 2 ^ 52)

/-- The one NaN pattern used inside a command; `settleNaN` replaces it by a free one where a result is stored. -/
def innerNaN : F64 := 0x7FF8000000000000

/-- `m / 2^d` rounded to the nearest integer, ties to even (R9). -/
def roundShift (m d : Nat) : Nat :=
  let q := m / 2 ^ d
  let r := m % 2 ^ d
  if 2 ^ d < 2 * r ∨ (2 * r = 2 ^ d ∧ q % 2 = 1) then q + 1 else q

/-- The datum nearest to `(−1)^neg · mag · 2^(e − 4096)`, ties to even (R9). `t` is the weight of the last bit kept,
with the same offset: 52 places below the leading bit, and not below the subnormals' 2^(−1074) = 2^(3022 − 4096).
Adding the exponent field to the rounded significand lets a carry out of it raise the exponent, up to infinity. -/
def roundPack (neg : Bool) (mag e : Nat) : F64 :=
  let t := max (e + mag.log2 - 52) 3022
  let q := if t ≤ e then mag * 2 ^ (e - t) else roundShift mag (t - e)
  let pattern := (t - 3022) * 2 ^ 52 + q
  if mag = 0 then withSign neg 0
  else if 2047 * 2 ^ 52 ≤ pattern then infinity neg
  else withSign neg pattern

/-- The sign of an exact zero sum is minus only when both operands are minus zero or negative (R9, IEEE 754). -/
def sumSign (x : Int) (s t : Bool) : Bool := if x = 0 then s && t else decide (x < 0)

/-- `fadd` of R9. -/
def fadd (a b : F64) : F64 :=
  match datum a, datum b with
  | .nan, _ => innerNaN
  | _, .nan => innerNaN
  | .inf s, .inf t => if s = t then infinity s else innerNaN
  | .inf s, .fin _ _ _ => infinity s
  | .fin _ _ _, .inf t => infinity t
  | .fin s _ _, .fin t _ _ =>
    let x := scaledReal a + scaledReal b
    roundPack (sumSign x s t) x.natAbs 3021

/-- `fmul` of R9. -/
def fmul (a b : F64) : F64 :=
  match datum a, datum b with
  | .nan, _ => innerNaN
  | _, .nan => innerNaN
  | .inf s, .inf t => infinity (s != t)
  | .inf s, .fin t n _ => if n = 0 then innerNaN else infinity (s != t)
  | .fin s m _, .inf t => if m = 0 then innerNaN else infinity (s != t)
  | .fin s m e, .fin t n g => roundPack (s != t) (m * n) (e + g + 1946)

/-- The magnitude of a quotient of significands to 120 binary places, with a last bit that says whether more follow:
enough to round the exact quotient once (R9). -/
def quotientBits (m n : Nat) : Nat :=
  2 * (m * 2 ^ 120 / n) + (if m * 2 ^ 120 % n = 0 then 0 else 1)

/-- `fdiv` of R9. -/
def fdiv (a b : F64) : F64 :=
  match datum a, datum b with
  | .nan, _ => innerNaN
  | _, .nan => innerNaN
  | .inf _, .inf _ => innerNaN
  | .inf s, .fin t _ _ => infinity (s != t)
  | .fin s _ _, .inf t => withSign (s != t) 0
  | .fin s m e, .fin t n g =>
    if n = 0 then (if m = 0 then innerNaN else infinity (s != t))
    else roundPack (s != t) (quotientBits m n) (e + 3975 - g)

/-- `ofInt` of R9: exact for |n| ≤ 2^53. -/
def ofInt (n : Int) : F64 := roundPack (decide (n < 0)) n.natAbs 4096

/-- The constant `+0.0` of R9. -/
def fZero : F64 := 0x0000000000000000

/-- The constant `0.25` of R9. -/
def fQuarter : F64 := 0x3FD0000000000000

/-- The constant `1.0` of R9. -/
def fOne : F64 := 0x3FF0000000000000

/-- `⌊x + 1/2⌋` for `x` = `n / 2^1075`, on exact values (R14). -/
def roundHalfUp (n : Nat) : Nat := (n + 2 ^ 1074) / 2 ^ 1075

/-- `rhaz` of R14, round half away from zero, through the exact value. R14 does not define it on an infinity or a NaN; a
Lean function must answer something there, and it answers 0 (DESIGN CHOICE, log 11). Every use tests `isFinite`, as R14
says, so no result depends on that answer. -/
def rhaz (a : F64) : Int :=
  let n := scaledReal a
  if 0 ≤ n then (roundHalfUp n.natAbs : Int) else -(roundHalfUp n.natAbs : Int)

/-- The NaN with a given sign (bit 52) and fraction (bits 51:0); a zero fraction, which would be an infinity, stands
for the fraction 1. Every NaN pattern is one of these. -/
def nanPattern (b : BitVec 53) : F64 :=
  let frac := b.toNat % 2 ^ 52
  withSign (b.getLsbD 52) (2047 * 2 ^ 52 + (if frac = 0 then 1 else frac))

/-- A result as it is stored: a NaN gets a free sign and payload (R9, R109, U3), any other datum stays. -/
def settleNaN (free : BitVec 53) (a : F64) : F64 := if isNaN a then nanPattern free else a

end Sys2Proof.Machine
end

