-- ==== Sys2Proof/Config.lean ====
section
/-! DEFINITION. What is fixed for an engine: the fixed and decided parameters of 00_scope.md R8 as constants, the open ones as
a record of parameters, and the two free values (00_scope.md R9, U3; 46_host_sequences.md R241). -/

namespace Sys2Proof

/-- `CLMAX` = 32, the largest code length the code table holds, in bits (R8). -/
def Config.clMax : Nat := 32

/-- The identification word `ID`, the bytes "C", "F", "S", 0x07 (R34). -/
def Config.idWord : Word := 0x43465307

/-- The default of the open parameter `SMAX` (R8). -/
def Config.defaultSMax : Nat := 65536

/-- FREE VALUE: sign (bit 52) and fraction (bits 51:0) of the NaN of a given draw. R9: an operation on a NaN or an
invalid operation "gives a NaN whose sign and payload are unspecified". It has no body, so nothing can be proved
about its values (log 4). -/
opaque Config.freeNaN : Nat → BitVec 53

/-- FREE VALUE: the 8-bit sample that a host stores for an element of `X` that is an infinity or a NaN. R241 defines
`sample8` "for a finite `x`" only. It has no body, so nothing can be proved about its values (DESIGN CHOICE, log 11). -/
opaque Config.nonFiniteSample : F64 → Byte

/-- One matrix of the catalog: entry `(r, c)` at index `8·r + c` (R121). -/
abbrev Profile := Block Byte

/-- The open parameters of R8. They are held beside the state so that statements range over every value; no step
writes them (log 5). -/
structure Params where
  /-- `SMAX`, the capacity of `S` in symbols. -/
  smax : Nat
  /-- `QCAT`, the catalog of profiles; its length is `NPROF`. -/
  qcat : List Profile
deriving DecidableEq, Repr

/-- `NPROF`, the number of profiles (R8). -/
def Params.nprof (c : Params) : Nat := c.qcat.length

/-- `PMAX` = 2·`SMAX`, the capacity of `P` in words (R8). -/
def Params.pmax (c : Params) : Nat := 2 * c.smax

/-- `BSMAX` = ⌈`SMAX`·`CLMAX`/8⌉, the capacity of `BS` in bytes (R8). -/
def Params.bsmax (c : Params) : Nat := (c.smax * Config.clMax + 7) / 8

end Sys2Proof
end

