-- ==== Sys2Proof/Machine/Rom.lean ====
section
/-! DEFINITION. The four read-only tables (10_state.md R30): the basis tables `COS` and `COEF`, the profile catalog `QROM`
and the scan order `ZZROM`. No command and no host access writes them, and every reset leaves them as they are (R55). -/

namespace Sys2Proof.Machine

/-- The binary64 patterns of `c0` to `c7`, the values nearest to cos(k·π/16) (R102). -/
def cosMagnitudes : List F64 :=
  [ 0x3FF0000000000000, 0x3FEF6297CFF75CB0, 0x3FED906BCF328D46, 0x3FEA9B66290EA1A3,
    0x3FE6A09E667F3BCD, 0x3FE1C73B39AE68C8, 0x3FD87DE2A6AEA963, 0x3FC8F8B83C69A60B ]

/-- The table of R102, row `i`, column `u`: `k` stands for `+ck` and `-k` for `−ck`. -/
def cosSigns : List (List Int) :=
  [ [0,  1,  2,  3,  4,  5,  6,  7],
    [0,  3,  6, -7, -4, -1, -2, -5],
    [0,  5, -6, -1, -4,  7,  2,  3],
    [0,  7, -2, -5,  4,  3, -6, -1] ] ++
  [ [0, -7, -2,  5,  4, -3, -6,  1],
    [0, -5, -6,  1, -4, -7,  2, -3],
    [0, -3,  6,  7, -4,  1, -2,  5],
    [0, -1,  2, -3,  4, -5,  6, -7] ]

/-- `+ck` or `−ck`: a negative entry is the same pattern with bit 63 set (R102). -/
def signedCos (k : Int) : F64 :=
  let c := cosMagnitudes.getD k.natAbs 0
  if k < 0 then c ||| 0x8000000000000000 else c

/-- `COS[k]`, with `COS[8·i+u]` = `cos[i][u]` (R30, R102). -/
def cosRom (k : Nat) : F64 := signedCos ((cosSigns.getD (k / 8) []).getD (k % 8) 0)

/-- `COEF[k]`, with `COEF[8·u+v]` = `coef[u][v]` (R30, R103). -/
def coefRom (k : Nat) : F64 :=
  if k = 0 then 0x3FE0000000000000
  else if k / 8 = 0 ∨ k % 8 = 0 then 0x3FE6A09E667F3BCD
  else 0x3FF0000000000000

/-- `ZZROM[0..63]` as R142 lists it. -/
def zzTable : List Nat :=
  [ 0,  1,  8, 16,  9,  2,  3, 10, 17, 24, 32, 25, 18, 11,  4,  5] ++
  [12, 19, 26, 33, 40, 48, 41, 34, 27, 20, 13,  6,  7, 14, 21, 28] ++
  [35, 42, 49, 56, 57, 50, 43, 36, 29, 22, 15, 23, 30, 37, 44, 51] ++
  [58, 59, 52, 45, 38, 31, 39, 46, 53, 60, 61, 54, 47, 55, 62, 63]

/-- `ZZROM[k]` = `8·row + col` of scan position `k` (R30, R142). -/
def zzRom (k : Nat) : Nat := zzTable.getD k 0

/-- The scan of R141: the positions that `n` more turns of its loop produce from `(r, c)`, sweeping up or down. -/
def zzScan : Nat → (r c : Nat) → (up : Bool) → List Nat
  | 0, _, _, _ => []
  | n + 1, r, c, true =>
    (8 * r + c) ::
      if c = 7 then zzScan n (r + 1) c false
      else if r = 0 then zzScan n r (c + 1) false
      else zzScan n (r - 1) (c + 1) true
  | n + 1, r, c, false =>
    (8 * r + c) ::
      if r = 7 then zzScan n r (c + 1) true
      else if c = 0 then zzScan n (r + 1) c true
      else zzScan n (r + 1) (c - 1) false

/-- The all-ones profile, the first of every catalog (R121). -/
def onesProfile : Profile := Vector.replicate 64 1

/-- The rows of the JPEG luminance matrix (R122). -/
def luminanceRows : List (List Byte) :=
  [ [16, 11, 10, 16,  24,  40,  51,  61],
    [12, 12, 14, 19,  26,  58,  60,  55],
    [14, 13, 16, 24,  40,  57,  69,  56],
    [14, 17, 22, 29,  51,  87,  80,  62] ] ++
  [ [18, 22, 37, 56,  68, 109, 103,  77],
    [24, 35, 55, 64,  81, 104, 113,  92],
    [49, 64, 78, 87, 103, 121, 120, 101],
    [72, 92, 95, 98, 112, 100, 103,  99] ]

/-- The luminance matrix, the last profile of every catalog (R121, R122). -/
def luminanceProfile : Profile := Vector.ofFn fun k => (luminanceRows.getD (k / 8) []).getD (k % 8) 1

/-- The default catalog, `NPROF` = 2 (R122). -/
def defaultCatalog : List Profile := [onesProfile, luminanceProfile]

/-- The default parameters (R8). -/
def defaultParams : Params := ⟨Config.defaultSMax, defaultCatalog⟩

/-- `QROM[k]`, with `QROM[64·p + j]` entry `j` of profile `p` (R30, R121). Above the last profile no element exists; the
port refuses such an index (R62) and `PROF < NPROF` (R57), so what stands there is never read. -/
def qRom (c : Params) (k : Nat) : Byte := (c.qcat.getD (k / 64) onesProfile).getD (k % 64) 1

end Sys2Proof.Machine
end

