-- ==== Sys2Proof/Machine/State.lean ====
section
/-! DEFINITION. The state of the engine (10_state.md R20) and of the host port that drives it (20_memory.md R71), as plain
data, and its value after reset (R53 to R56). -/

namespace Sys2Proof.Machine

/-- A stream buffer or table held sparsely: (index, element) pairs with strictly rising indices and no element equal to
what an unlisted index reads as. `Memory.wf` in Ops.lean says so. -/
abbrev Memory (α : Type) := List (Nat × α)

/-- An element of `CODE` (R28, R60): a length of 6 bits and the code bits, the first of them bit `len-1`. -/
structure CodeEntry where
  len : BitVec 6
  bits : BitVec 32
deriving DecidableEq, Repr

/-- The entry of a symbol with the empty code, `(0, 0)` (R28). -/
def CodeEntry.empty : CodeEntry := ⟨0, 0⟩

/-- The thirteen spaces of the host port (R60). -/
inductive Space where
  | reg | x | f | z | s | p | freq | code | bs | cos | coef | qrom | zzrom
deriving DecidableEq, Repr

/-- An element on the port, of the type its space gives it (R60, R65). -/
inductive Elem where
  /-- `REG` and `P`: a 32-bit word. -/
  | word (w : Word)
  /-- `X`, `F`, `COS`, `COEF`: a binary64 pattern. -/
  | float (v : F64)
  /-- `Z` and `S`: a 16-bit two's complement symbol. -/
  | symbol (v : Symbol)
  /-- `FREQ`: a 64-bit unsigned weight. -/
  | weight (w : Weight)
  /-- `CODE`: a pair `(len, bits)`. -/
  | code (e : CodeEntry)
  /-- `BS` and `QROM`: 8 bits unsigned. -/
  | byte (b : Byte)
  /-- `ZZROM`: 6 bits unsigned. -/
  | position (k : BitVec 6)
deriving DecidableEq, Repr

/-- An action of the host (R93): an access to the port (R62, R63) or the reset of R300. -/
inductive HostAction where
  /-- `RD space[i]`. -/
  | read (space : Space) (i : Nat)
  /-- `WR space[i], value`; a command is `WR REG.CMD, word`. -/
  | write (space : Space) (i : Nat) (value : Elem)
  /-- `RESET`. -/
  | reset
deriving DecidableEq, Repr

/-- The answer of the port to an access (R62, R63). -/
inductive HostAnswer where
  /-- A write that was accepted. -/
  | ok
  /-- A read, with the element stored. -/
  | value (e : Elem)
  /-- A refused access (R64). -/
  | busErr
deriving DecidableEq, Repr

/-- The whole state: the buffers, tables and registers of R20, the parameters they are sized by, and the model's own
fields (the draw counter of log 4, the host's actions and the port's answers of log 1). -/
structure State where
  /-- The open parameters (R8, R51); written by no step. -/
  params : Params
  /-- `X`, the sample block (R21). -/
  x : Block F64
  /-- `F`, the coefficient block (R22). -/
  f : Block F64
  /-- `Z`, the quantized block (R23). -/
  z : Block Symbol
  /-- `S`, the symbol buffer (R25). -/
  sBuf : Memory Symbol
  /-- `P`, the pair buffer (R26). -/
  pBuf : Memory Word
  /-- `BS`, the bitstream buffer (R29). -/
  bs : Memory Byte
  /-- `FREQ`, by the index `u16(v)` of the symbol (R27, R60). -/
  freq : Memory Weight
  /-- `CODE`, by the index `u16(v)` of the symbol (R28, R60). -/
  code : Memory CodeEntry
  /-- `STATUS.FAULT`, the faulted condition (R36, R58). -/
  faulted : Bool
  /-- `STATUS.PLOCK`, a profile has been chosen since reset (R36, R42). -/
  plock : Bool
  /-- `ERR` (R37). -/
  err : BitVec 8
  /-- `ERRCMD` (R38). -/
  errCmd : Word
  /-- `ERRTAG` (R39). -/
  errTag : Word
  /-- `ERRINFO` (R40). -/
  errInfo : Word
  /-- `TAG` (R41). -/
  tag : Word
  /-- `PROF` (R42). -/
  prof : BitVec 8
  /-- `SLEN` (R43). -/
  slen : BitVec 23
  /-- `PLEN` (R44). -/
  plen : BitVec 24
  /-- `NSYM` (R45). -/
  nsym : BitVec 17
  /-- `BITLEN` (R46). -/
  bitLen : Word
  /-- `BSLEN` (R47). -/
  bsLen : Word
  /-- `FLAGS.E` (R48). -/
  flagE : Bool
  /-- `FLAGS.S1` (R48). -/
  flagS1 : Bool
  /-- `FLAGS.PB` (R48). -/
  flagPB : Bool
  /-- How many free NaN values have been drawn (the model's own, log 4). -/
  draws : Nat
  /-- The host's actions that have not been served, oldest first (the model's own, log 1; R71, R93). -/
  pending : List HostAction
  /-- The port's answers, newest first (the model's own, log 1; R62, R63). -/
  answers : List HostAnswer
deriving DecidableEq, Repr

/-- Stops of the model with a fault: there are none. "every 32-bit word written to `CMD` in every state has a stated
outcome (rule R91, rule R271), and every host access has one (rule R62, rule R63)" (93_implementation_defined.md): the
engine's own faults are next states (R272), and a refused access is an answer of the port (R64). Nobody raises one;
safe (log 9). -/
inductive Fault
deriving DecidableEq, Repr

/-- Stops of the model with a refusal. -/
inductive Refusal where
  /-- Raised by `exec` for a command that has no meaning yet; safe. No arm of `exec` raises it. -/
  | notModelled (mnemonic : String)
deriving DecidableEq, Repr

/-- The state of an engine with parameters `c` right after power-on: the register values of R54, the cleared tables of
R55; the data buffers, which R56 leaves unspecified, read as zero (DESIGN CHOICE, log 3). -/
def State.powerOn (c : Params) : State where
  params := c
  x := Vector.replicate 64 0
  f := Vector.replicate 64 0
  z := Vector.replicate 64 0
  sBuf := []
  pBuf := []
  bs := []
  freq := []
  code := []
  faulted := false
  plock := false
  err := 0
  errCmd := 0
  errTag := 0
  errInfo := 0
  tag := 0
  prof := 0
  slen := 0
  plen := 0
  nsym := 0
  bitLen := 0
  bsLen := 0
  flagE := false
  flagS1 := false
  flagPB := false
  draws := 0
  pending := []
  answers := []

/-- The machine right after reset, with the default parameters of R8. -/
def State.reset : State := State.powerOn defaultParams

end Sys2Proof.Machine
end

