-- ==== Sys2Proof/Machine/Ops.lean ====
section
/-! DEFINITION. The named operations over buffers and registers, and taking a fault (60_exceptions.md R272): the one
exception mechanism of the engine. There is no return from a fault (R274); `ABORT` (Control.lean) leaves the faulted
condition. -/

namespace Sys2Proof.Machine

/-! ## Sparse buffers -/

/-- Element `i` of a sparse buffer; `d` is what an unlisted index reads as. -/
def Memory.read {α : Type} (d : α) (m : Memory α) (i : Nat) : α :=
  match m.find? (fun c => c.1 == i) with
  | some c => c.2
  | none => d

/-- The (index, element) pairs of the values `vals` laid from index `a` on, less those that read as `d` anyway. -/
def Memory.cells {α : Type} [DecidableEq α] (d : α) (a : Nat) (vals : List α) : Memory α :=
  (vals.zipIdx a).filterMap fun c => if c.1 = d then none else some (c.2, c.1)

/-- The buffer after the values `vals` have been written to the indices `a`, `a+1`, … -/
def Memory.writeList {α : Type} [DecidableEq α] (d : α) (m : Memory α) (a : Nat) (vals : List α) : Memory α :=
  m.filter (fun c => c.1 < a) ++ Memory.cells d a vals ++ m.filter (fun c => a + vals.length ≤ c.1)

/-- The buffer after one element has been written. -/
def Memory.write {α : Type} [DecidableEq α] (d : α) (m : Memory α) (i : Nat) (v : α) : Memory α :=
  Memory.writeList d m i [v]

/-- The sequence of the `n` elements from index `a` on (R13). -/
def Memory.slice {α : Type} (d : α) (m : Memory α) (a n : Nat) : List α :=
  (List.range n).map fun k => Memory.read d m (a + k)

/-- The canonical form: indices strictly rising, no element equal to what an unlisted index reads as. -/
abbrev Memory.wf {α : Type} (d : α) (m : Memory α) : Prop :=
  (m.map Prod.fst).Pairwise (· < ·) ∧ ∀ c ∈ m, c.2 ≠ d

/-- Every listed index is below the capacity. -/
abbrev Memory.below {α : Type} (capacity : Nat) (m : Memory α) : Prop := ∀ c ∈ m, c.1 < capacity

/-! ## The elements of the state (00_scope.md R15) -/

/-- Element `k` of a block buffer, `k` in 0..63 (R12). -/
def blockAt {α : Type} [Inhabited α] (b : Block α) (k : Nat) : α := b.getD k default

/-- `S[i]` (R25). -/
def State.symbolAt (s : State) (i : Nat) : Symbol := s.sBuf.read 0 i

/-- `P[i]` (R26). -/
def State.pairWordAt (s : State) (i : Nat) : Word := s.pBuf.read 0 i

/-- `BS[i]` (R29). -/
def State.byteAt (s : State) (i : Nat) : Byte := s.bs.read 0 i

/-- `u16(v)`, the index of symbol `v` in `FREQ` and `CODE` (R11, R60). -/
def symbolIndex (v : Symbol) : Nat := v.toNat

/-- `FREQ[v]` (R27). -/
def State.weightOf (s : State) (v : Symbol) : Weight := s.freq.read 0 (symbolIndex v)

/-- The entry of symbol `v` in a code table (R28). -/
def codeOf (table : Memory CodeEntry) (v : Symbol) : CodeEntry := table.read CodeEntry.empty (symbolIndex v)

/-- `CODE[v]` (R28). -/
def State.codeEntryOf (s : State) (v : Symbol) : CodeEntry := codeOf s.code v

/-! ## Updates of the state: what a command commits at its end (R15, R272) -/

/-- The state with the coefficient block `F` replaced. -/
def State.withF (s : State) (v : Block F64) : State := { s with f := v }

/-- The state with the sample block `X` replaced. -/
def State.withX (s : State) (v : Block F64) : State := { s with x := v }

/-- The state with the quantized block `Z` replaced. -/
def State.withZ (s : State) (v : Block Symbol) : State := { s with z := v }

/-- The state after `n` more free NaN values have been drawn (log 4). -/
def State.drawn (s : State) (n : Nat) : State := { s with draws := s.draws + n }

/-- The state with `S` and `SLEN` replaced. -/
def State.withSymbols (s : State) (buf : Memory Symbol) (len : Nat) : State :=
  { s with sBuf := buf, slen := BitVec.ofNat 23 len }

/-- The state with `P` and `PLEN` replaced. -/
def State.withPairs (s : State) (buf : Memory Word) (len : Nat) : State :=
  { s with pBuf := buf, plen := BitVec.ofNat 24 len }

/-- The state with `FREQ`, `NSYM` and `CODE` replaced. -/
def State.withTables (s : State) (w : Memory Weight) (k : Nat) (c : Memory CodeEntry) : State :=
  { s with freq := w, nsym := BitVec.ofNat 17 k, code := c }

/-- The state with `BS`, `BITLEN` and `BSLEN` replaced. -/
def State.withStream (s : State) (buf : Memory Byte) (bits bytes : Nat) : State :=
  { s with bs := buf, bitLen := BitVec.ofNat 32 bits, bsLen := BitVec.ofNat 32 bytes }

/-- The state with `FLAGS.E` replaced (R48). -/
def State.withE (s : State) (e : Bool) : State := { s with flagE := e }

/-- The state with `FLAGS.S1` replaced (R48). -/
def State.withS1 (s : State) (b : Bool) : State := { s with flagS1 := b }

/-- The state with `FLAGS.PB` replaced (R48). -/
def State.withPB (s : State) (b : Bool) : State := { s with flagPB := b }

/-- The state after the port has answered an access (log 1). -/
def State.answered (s : State) (a : HostAnswer) : State := { s with answers := a :: s.answers }

/-- The state with the host's remaining actions replaced (log 1). -/
def State.withPending (s : State) (rest : List HostAction) : State := { s with pending := rest }

/-! ## Faults -/

/-- The faults of R261. -/
inductive Cause where
  | dimensionMismatch | illegalCommand | notConfigured | seqBounds
  | coefRange | malformedPairs | missingCode | codeTooLong
deriving DecidableEq, Repr

/-- The code written to `ERR` (R261). -/
def Cause.errCode : Cause → BitVec 8
  | .dimensionMismatch => 1
  | .illegalCommand => 2
  | .notConfigured => 3
  | .seqBounds => 4
  | .coefRange => 5
  | .malformedPairs => 6
  | .missingCode => 7
  | .codeTooLong => 8

/-- A fault a command raises: its cause and the word for `ERRINFO` (R275). -/
structure Raise where
  cause : Cause
  info : Nat
deriving DecidableEq, Repr

/-- Fault entry of R272: the five assignments, and nothing else. -/
def State.raise (s : State) (word : Word) (r : Raise) : State :=
  { s with
    err := r.cause.errCode
    errCmd := word
    errTag := s.tag
    errInfo := BitVec.ofNat 32 r.info
    faulted := true }

/-- The end of a command (R272): it commits the state it has computed aside, or takes the fault it has raised. -/
def finish (i : Instr) (s : State) (result : Except Raise State) : Host.Outcome State Fault Refusal :=
  match result with
  | .ok t => .next t
  | .error r => .next (s.raise (encode i) r)

/-- What follows a next state; a stop stays. -/
def onNext (o : Host.Outcome State Fault Refusal) (k : State → State) : Host.Outcome State Fault Refusal :=
  match o with
  | .next s => .next (k s)
  | .fault r => .fault r
  | .refused r => .refused r

/-- The state right after the reset of R300: what `State.powerOn` says, for the same parameters. The host's later
actions, its log of answers and the draw counter are not the engine's and stay (log 1, log 4). -/
def State.afterReset (s : State) : State :=
  { State.powerOn s.params with draws := s.draws, pending := s.pending, answers := s.answers }

end Sys2Proof.Machine
end

