-- ==== Sys2Proof/Machine/Control.lean ====
section
/-! DEFINITION. The control commands `NOP` and `ABORT` (45_control.md). -/

namespace Sys2Proof.Machine

/-- `NOP` (R220): nothing. -/
def execNop (s : State) : Host.Outcome State Fault Refusal := .next s

/-- What `ABORT` clears (R221): the fault record, the lengths, the flags and both tables. `TAG`, `PROF`, `PLOCK` and the
contents of the data buffers stay. -/
def State.aborted (s : State) : State :=
  { s with
    err := 0
    errCmd := 0
    errTag := 0
    errInfo := 0
    faulted := false
    slen := 0
    plen := 0
    nsym := 0
    bitLen := 0
    bsLen := 0
    flagE := false
    flagS1 := false
    flagPB := false
    freq := []
    code := [] }

/-- `ABORT` (R221). -/
def execAbort (s : State) : Host.Outcome State Fault Refusal := .next s.aborted

end Sys2Proof.Machine
end

