-- ==== Sys2Proof/Machine/Operands.lean ====
section
/-! DEFINITION. The operand forms: the declared shape of format B and length of format Z (30_encoding.md R83, R84), the
selected profile (41_quant.md R123), the symbol sequence (10_state.md R25) and the pair list (10_state.md R26,
43_rle.md R164). A check answers the fault it raises, with its `ERRINFO` (60_exceptions.md R275). -/

namespace Sys2Proof.Machine

/-- The shape check of the format-B commands (R83, R262). -/
def checkShape (rows cols : Nat) : Except Raise Unit :=
  if rows = 8 ∧ cols = 8 then .ok () else .error ⟨.dimensionMismatch, rows * 16 + cols⟩

/-- The length check of `ZZ.DES` (R84, R262). -/
def checkLength (n : Nat) : Except Raise Unit :=
  if n = 64 then .ok () else .error ⟨.dimensionMismatch, n⟩

/-- The profile must have been chosen (R123, R264). -/
def checkProfile (s : State) : Except Raise Unit :=
  if s.plock then .ok () else .error ⟨.notConfigured, 0⟩

/-- `ZZ.SER` needs 64 free symbols (R144, R265). -/
def checkRoom (s : State) : Except Raise Unit :=
  if s.slen.toNat + 64 ≤ s.params.smax then .ok () else .error ⟨.seqBounds, s.slen.toNat⟩

/-- The slice of `ZZ.DES` must lie inside the valid sequence (R145, R265). -/
def checkSlice (s : State) (blk : Nat) : Except Raise Unit :=
  if 64 * blk + 64 ≤ s.slen.toNat then .ok () else .error ⟨.seqBounds, 64 * blk⟩

/-- Entry `k` of the selected profile, `Q[k] = QROM[64·PROF + k]` (R123). -/
def State.profileEntry (s : State) (k : Nat) : Nat := (qRom s.params (64 * s.prof.toNat + k)).toNat

/-- The symbol sequence `S[0..SLEN)` (R25). -/
def State.symbols (s : State) : List Symbol := s.sBuf.slice 0 0 s.slen.toNat

/-- The words `P[0..PLEN)` of the pair list (R26). -/
def State.pairWords (s : State) : List Word := s.pBuf.slice 0 0 s.plen.toNat

/-- A run: its length and its value (R161). -/
abbrev Run := Nat × Symbol

/-- A value word is the sign extension of a symbol when it lies in −32768..32767 (R164 (c)). -/
def isSymbolWord (w : Word) : Bool := decide (-32768 ≤ w.toInt) && decide (w.toInt ≤ 32767)

/-- The symbol of a value word (R26). -/
def symbolOfWord (w : Word) : Symbol := w.setWidth 16

/-- The pair of a count word and a value word at words `k` and `k+1` of `P`, or the fault R164 raises for it: the count
is tested before the value. -/
def readPair (k : Nat) (count value : Word) : Except Raise Run :=
  if count = 0 then .error ⟨.malformedPairs, k⟩
  else if isSymbolWord value then .ok (count.toNat, symbolOfWord value)
  else .error ⟨.malformedPairs, k + 1⟩

/-- The scan of `PairCheck` by ascending pair number from word `k` on, with the pairs read (R164). -/
def scanPairs : (k : Nat) → List Word → Except Raise (List Run)
  | k, count :: value :: rest => do
    let p ← readPair k count value
    let ps ← scanPairs (k + 2) rest
    return p :: ps
  | _, [_] => .ok []
  | _, [] => .ok []

/-- The parity test of R164: the word left without a partner is `PLEN − 1`. -/
def checkParity (plen : Nat) : Except Raise Unit :=
  if plen % 2 = 1 then .error ⟨.malformedPairs, plen - 1⟩ else .ok ()

/-- `PairCheck` of R164, with the pair list it accepts. -/
def checkPairs (s : State) : Except Raise (List Run) := do
  checkParity s.plen.toNat
  scanPairs 0 s.pairWords

/-- The scan of `RLE.DEC` (R166): the tests of a pair, then the running total against `SMAX`; the first failure wins. -/
def scanExpansion (smax : Nat) : (k total : Nat) → List Word → Except Raise (List Run)
  | k, total, count :: value :: rest => do
    let p ← readPair k count value
    if smax < total + p.1 then .error ⟨.seqBounds, k⟩
    else do
      let ps ← scanExpansion smax (k + 2) (total + p.1) rest
      return p :: ps
  | _, _, [_] => .ok []
  | _, _, [] => .ok []

/-- The checks of `RLE.DEC` (R166), with the pair list they accept. -/
def checkExpansion (s : State) : Except Raise (List Run) := do
  checkParity s.plen.toNat
  scanExpansion s.params.smax 0 0 s.pairWords

end Sys2Proof.Machine
end

