-- ==== Sys2Proof/Machine/Dct.lean ====
section
/-! DEFINITION. The BlockTransform unit: `DCT.FWD` and `DCT.INV` (40_dct.md). -/

namespace Sys2Proof.Machine

/-- `cos[i][u]`, element `8·i+u` of `COS` (R30). -/
def cosAt (i u : Nat) : F64 := cosRom (8 * i + u)

/-- `coef[u][v]`, element `8·u+v` of `COEF` (R30). -/
def coefAt (u v : Nat) : F64 := coefRom (8 * u + v)

/-- The sum of the 64 terms `term a b`, `a` outermost and `b` innermost, added one by one to an accumulator that starts
at `+0.0` (R107, R108). -/
def sum64 (term : Nat → Nat → F64) : F64 :=
  (List.range 8).foldl (fun acc a => (List.range 8).foldl (fun acc b => fadd acc (term a b)) acc) fZero

/-- The coefficient `Fnew[8·u+v]` of R107, before a NaN gets its free payload. -/
def dctCoefficient (x : Block F64) (u v : Nat) : F64 :=
  fmul (fmul fQuarter (coefAt u v))
    (sum64 fun i j => fmul (fmul (cosAt i u) (cosAt j v)) (blockAt x (8 * i + j)))

/-- The sample `Xnew[8·i+j]` of R108, before a NaN gets its free payload. -/
def dctSample (f : Block F64) (i j : Nat) : F64 :=
  fmul fQuarter
    (sum64 fun u v => fmul (fmul (fmul (coefAt u v) (cosAt i u)) (cosAt j v)) (blockAt f (8 * u + v)))

/-- A block of 64 results as it is stored, a NaN at index `k` taking the draw `draws + k` (R9, R109, log 4). -/
def settleBlock (draws : Nat) (result : Nat → Nat → F64) : Block F64 :=
  Vector.ofFn fun k => settleNaN (Config.freeNaN (draws + k)) (result (k / 8) (k % 8))

/-- `DCT.FWD rows, cols` (R107). -/
def execDctFwd (rows cols : Nat) (s : State) : Host.Outcome State Fault Refusal :=
  finish (.dctFwd rows cols) s do
    checkShape rows cols
    return (s.withF (settleBlock s.draws (dctCoefficient s.x))).drawn 64

/-- `DCT.INV rows, cols` (R108). -/
def execDctInv (rows cols : Nat) (s : State) : Host.Outcome State Fault Refusal :=
  finish (.dctInv rows cols) s do
    checkShape rows cols
    return (s.withX (settleBlock s.draws (dctSample s.f))).drawn 64

end Sys2Proof.Machine
end

