-- ==== Sys2Proof/Machine/Flags.lean ====
section
/-! DEFINITION. The three condition flags of `FLAGS` and their computations (10_state.md R48), and the words that
registers 2 and 14 read as (R36, R48). -/

namespace Sys2Proof.Machine

/-- `E`, *EmptyInput*: the command's input, of `n` symbols or words, was empty (R48). -/
def emptyInput (n : Nat) : Bool := n == 0

/-- `S1`, *SingleSymbolDegeneracy*: `HUF.BUILD` found exactly one distinct symbol (R48). -/
def singleSymbol (k : Nat) : Bool := k == 1

/-- `PB`, *PartialFinalByte*: `HUF.PACK` ended in the middle of a byte (R48). -/
def partialByte (bits : Nat) : Bool := bits % 8 != 0

/-- A word whose bit `k` is `b` and whose other bits are 0. -/
def bitWord (b : Bool) (k : Nat) : Word := if b then BitVec.ofNat 32 (2 ^ k) else 0

/-- What `STATUS` reads as: bit 0 `FAULT`, bit 1 `PLOCK`, the others 0 (R36). -/
def State.statusWord (s : State) : Word := bitWord s.faulted 0 ||| bitWord s.plock 1

/-- What `FLAGS` reads as: bit 0 `E`, bit 1 `S1`, bit 2 `PB`, the others 0 (R48). -/
def State.flagsWord (s : State) : Word := bitWord s.flagE 0 ||| bitWord s.flagS1 1 ||| bitWord s.flagPB 2

end Sys2Proof.Machine
end

