-- ==== Sys2Proof/Machine/Huffman.lean ====
section
/-! DEFINITION. The HuffmanCoder unit: `HUF.BUILD`, `HUF.PACK`, and the reference decoder, which is a function and no
command (44_huffman.md). -/

namespace Sys2Proof.Machine

/-! ## Frequencies (R183) -/

/-- `w[v]` of `HufFreq`: the sum of the counts of the pairs with value `v` (R183). -/
def symbolWeight (pairs : List Run) (v : Symbol) : Nat := ((pairs.filter fun p => p.2 = v).map Prod.fst).sum

/-- A symbol put into an ascending list of symbols, in signed order, unless it is there (R187). -/
def insertSymbol (v : Symbol) : List Symbol → List Symbol
  | [] => [v]
  | u :: us =>
    if v.toInt < u.toInt then v :: u :: us
    else if v = u then u :: us
    else u :: insertSymbol v us

/-- The distinct symbols of a pair list in ascending signed order (R183, R187). Every count of a well-formed list is at
least 1 (R164), so they are the symbols `v` with `w[v] ≥ 1`. -/
def distinctSymbols (pairs : List Run) : List Symbol := pairs.foldr (fun p us => insertSymbol p.2 us) []

/-! ## The tree (R181, R185 to R188) -/

/-- A node of the tree; `ord` is its creation number (R181). -/
inductive HufTree where
  | leaf (sym : Symbol) (freq ord : Nat)
  | node (freq ord : Nat) (left right : HufTree)
deriving DecidableEq, Repr

/-- The frequency of a node. -/
def HufTree.freq : HufTree → Nat
  | .leaf _ w _ => w
  | .node w _ _ _ => w

/-- The creation number of a node. -/
def HufTree.ord : HufTree → Nat
  | .leaf _ _ o => o
  | .node _ o _ _ => o

/-- Node `a` is lower than node `b` in the order of keys `(freq, ord)` (R186). -/
def HufTree.lower (a b : HufTree) : Bool :=
  decide (a.freq < b.freq) || (decide (a.freq = b.freq) && decide (a.ord < b.ord))

/-- The lowest node of the non-empty collection `a :: rest`, and the collection without it (R186, R188). -/
def popLowest (a : HufTree) : List HufTree → HufTree × List HufTree
  | [] => (a, [])
  | b :: rest =>
    if b.lower a then ((popLowest b rest).1, a :: (popLowest b rest).2)
    else ((popLowest a rest).1, b :: (popLowest a rest).2)

/-- One turn of the loop of R188 on the live nodes `a :: rest`, with the creation number of the new node: the first
node popped becomes the left child, the second the right. With one live node nothing is left to merge. -/
def mergeLowest (next : Nat) (a : HufTree) (rest : List HufTree) : HufTree × List HufTree :=
  match popLowest a rest with
  | (first, []) => (first, [])
  | (first, b :: others) =>
    let p := popLowest b others
    (.node (first.freq + p.1.freq) next first p.1, p.2)

/-- `n` turns of the loop of R188, from the creation number `next` on. -/
def mergeLoop : (n next : Nat) → HufTree → List HufTree → HufTree
  | 0, _, a, _ => a
  | n + 1, next, a, rest => mergeLoop n (next + 1) (mergeLowest next a rest).1 (mergeLowest next a rest).2

/-- The leaves of the symbols, with creation numbers `0`, `1`, … in their order (R187). -/
def hufLeaves (w : Symbol → Nat) (syms : List Symbol) : List HufTree :=
  syms.zipIdx.map fun c => .leaf c.1 (w c.1) c.2

/-- `HufTree` of R188: `K − 1` merges of the `K` leaves; no tree for no symbol. -/
def hufTree (w : Symbol → Nat) (syms : List Symbol) : Option HufTree :=
  match hufLeaves w syms with
  | [] => none
  | a :: rest => some (mergeLoop rest.length syms.length a rest)

/-! ## Codes (R189 to R191) -/

/-- `walk` of R189: the code string of each leaf, a left edge appending 0 and a right edge 1. -/
def walkTree : HufTree → (pre : List Bool) → List (Symbol × List Bool)
  | .leaf v _ _, pre => [(v, pre)]
  | .node _ _ l r, pre => walkTree l (pre ++ [false]) ++ walkTree r (pre ++ [true])

/-- `HufCodes` of R189: a root that is a leaf gives its symbol the code "0" (R190). -/
def hufCodes : Option HufTree → List (Symbol × List Bool)
  | none => []
  | some (.leaf v _ _) => [(v, [false])]
  | some (.node w o l r) => walkTree (.node w o l r) []

/-- The code string of a symbol, empty when it has none (R189). -/
def codeString (codes : List (Symbol × List Bool)) (v : Symbol) : List Bool :=
  match codes.find? (fun c => c.1 = v) with
  | some c => c.2
  | none => []

/-- The value of a bit string, its first bit the most significant (R191). -/
def bitsValue (b : List Bool) : Nat := b.foldl (fun n bit => 2 * n + bit.toNat) 0

/-- The code table entry of a code string (R191). -/
def codeEntry (b : List Bool) : CodeEntry := ⟨BitVec.ofNat 6 b.length, BitVec.ofNat 32 (bitsValue b)⟩

/-- The code string of an entry: its `len` low bits, most significant first (R28, R191). -/
def CodeEntry.string (e : CodeEntry) : List Bool :=
  (List.range e.len.toNat).map fun m => e.bits.getLsbD (e.len.toNat - 1 - m)

/-- A table over the symbols that holds `g v` for each listed symbol and `d` for every other. -/
def tableOf {α : Type} [DecidableEq α] (d : α) (g : Symbol → α) (syms : List Symbol) : Memory α :=
  syms.foldl (fun m v => Memory.write d m (symbolIndex v) (g v)) []

/-- The codes of a pair list (R194). -/
def pairCodes (pairs : List Run) : List (Symbol × List Bool) :=
  hufCodes (hufTree (symbolWeight pairs) (distinctSymbols pairs))

/-- `CodeTooLong` at the lowest symbol, in signed order, whose code is longer than `CLMAX` bits (R193). -/
def checkCodeLengths (pairs : List Run) : Except Raise Unit :=
  match (distinctSymbols pairs).find? (fun v => Config.clMax < (codeString (pairCodes pairs) v).length) with
  | some v => .error ⟨.codeTooLong, symbolIndex v⟩
  | none => .ok ()

/-- `HUF.BUILD` (R194): replaces the whole of `FREQ` and `CODE`. -/
def execHufBuild (s : State) : Host.Outcome State Fault Refusal :=
  finish .hufBuild s do
    let pairs ← checkPairs s
    checkCodeLengths pairs
    let syms := distinctSymbols pairs
    let freq := tableOf 0 (fun v => BitVec.ofNat 64 (symbolWeight pairs v)) syms
    let code := tableOf CodeEntry.empty (fun v => codeEntry (codeString (pairCodes pairs) v)) syms
    return ((s.withTables freq syms.length code).withE (emptyInput s.plen.toNat)).withS1 (singleSymbol syms.length)

/-! ## Packing (R198 to R200) -/

/-- The concatenated code strings of the symbols from index `i` on, or `MissingCode` at the first symbol whose code is
empty (R200, R201). -/
def encodeSymbols (table : Memory CodeEntry) : (i : Nat) → List Symbol → Except Raise (List Bool)
  | _, [] => .ok []
  | i, v :: rest =>
    if (codeOf table v).len = 0 then .error ⟨.missingCode, i⟩
    else do
      let bits ← encodeSymbols table (i + 1) rest
      return (codeOf table v).string ++ bits

/-- The byte of the first eight bits of a string: bit `t` at position `7 − t`, a missing bit 0 (R198, R199). -/
def packByte (b : List Bool) : Byte :=
  BitVec.ofNat 8 (((List.range 8).map fun t => if b.getD t false then 2 ^ (7 - t) else 0).sum)

/-- The first `n` bytes of a bit string (R200). -/
def packBytes : (n : Nat) → List Bool → List Byte
  | 0, _ => []
  | n + 1, b => packByte b :: packBytes n (b.drop 8)

/-- `HUF.PACK` (R200). -/
def execHufPack (s : State) : Host.Outcome State Fault Refusal :=
  finish .hufPack s do
    let bitstr ← encodeSymbols s.code 0 s.symbols
    let nbytes := (bitstr.length + 7) / 8
    let stream := s.bs.writeList 0 0 (packBytes nbytes bitstr)
    return ((s.withStream stream bitstr.length nbytes).withE (emptyInput s.slen.toNat)).withPB
      (partialByte bitstr.length)

/-! ## The reference decoder (R206) -/

/-- The symbol whose entry is `(len, bits)`, if there is one (R206; at most one, R196). -/
def symbolOfCode (table : Memory CodeEntry) (len bits : Nat) : Option Symbol :=
  match table.find? (fun c => c.2.len.toNat = len ∧ c.2.bits.toNat = bits ∧ len ≠ 0) with
  | some c => some (BitVec.ofNat 16 c.1)
  | none => none

/-- The loop of `HufDecode` over the bits of a stream, with the length and value of the code begun (R206). -/
def decodeBits (table : Memory CodeEntry) : List Bool → (len bits : Nat) → Option (List Symbol)
  | [], len, _ => if len = 0 then some [] else none
  | b :: rest, len, bits =>
    match symbolOfCode table (len + 1) (2 * bits + b.toNat) with
    | some v => (decodeBits table rest 0 0).map (v :: ·)
    | none => if len + 1 = Config.clMax then none else decodeBits table rest (len + 1) (2 * bits + b.toNat)

/-- The first `n` bits of the stream: bit `m` is bit `7 − (m mod 8)` of byte `⌊m/8⌋` (R198, R206). -/
def streamBits (bytes : Memory Byte) (n : Nat) : List Bool :=
  (List.range n).map fun m => (bytes.read 0 (m / 8)).getLsbD (7 - m % 8)

/-- `HufDecode` of R206: the mirror of `HUF.PACK`, for statements and tests. -/
def hufDecode (bytes : Memory Byte) (bitLen : Nat) (table : Memory CodeEntry) : Option (List Symbol) :=
  decodeBits table (streamBits bytes bitLen) 0 0

end Sys2Proof.Machine
end

