-- ==== Sys2Proof/Machine/Quant.lean ====
section
/-! DEFINITION. The Quantizer unit: `QNT.FWD` and `QNT.INV` (41_quant.md). -/

namespace Sys2Proof.Machine

/-- The quantized value of a coefficient against a divisor: one division, rounded once, then `rhaz`; nothing where the
quotient is not finite or does not fit 16 bits (R125). -/
def quantizeOne (a : F64) (q : Nat) : Option Symbol :=
  let quotient := fdiv a (ofInt q)
  let n := rhaz quotient
  if isFinite quotient ∧ -32768 ≤ n ∧ n ≤ 32767 then some (BitVec.ofInt 16 n) else none

/-- The quantized block, or `CoefRange` at the lowest index that has no quantized value (R125, R266). -/
def quantizeBlock (s : State) : Except Raise (Block Symbol) :=
  match (List.range 64).find? (fun k => (quantizeOne (blockAt s.f k) (s.profileEntry k)).isNone) with
  | some k => .error ⟨.coefRange, k⟩
  | none => .ok (Vector.ofFn fun k => (quantizeOne (blockAt s.f k) (s.profileEntry k)).getD 0)

/-- The coefficient of a quantized value, the exact product with the profile entry (R126). -/
def dequantizeOne (v : Symbol) (q : Nat) : F64 := fmul (ofInt v.toInt) (ofInt q)

/-- `QNT.FWD rows, cols` (R125). -/
def execQntFwd (rows cols : Nat) (s : State) : Host.Outcome State Fault Refusal :=
  finish (.qntFwd rows cols) s do
    checkShape rows cols
    checkProfile s
    let z ← quantizeBlock s
    return s.withZ z

/-- `QNT.INV rows, cols` (R126). -/
def execQntInv (rows cols : Nat) (s : State) : Host.Outcome State Fault Refusal :=
  finish (.qntInv rows cols) s do
    checkShape rows cols
    checkProfile s
    return s.withF (Vector.ofFn fun k => dequantizeOne (blockAt s.z k) (s.profileEntry k))

end Sys2Proof.Machine
end

