-- ==== Sys2Proof/Machine/Rle.lean ====
section
/-! DEFINITION. The RunLengthCoder unit: `RLE.ENC` and `RLE.DEC` (43_rle.md). -/

namespace Sys2Proof.Machine

/-- A symbol put before a list of maximal runs: it lengthens the first run when that has its value (R161). -/
def pushSymbol (v : Symbol) : List Run → List Run
  | (n, w) :: rest => if v = w then (n + 1, w) :: rest else (1, v) :: (n, w) :: rest
  | [] => [(1, v)]

/-- `RleEnc` of R161: the maximal runs of equal consecutive symbols, in order. R161 says the result is unique, so it is
built here from the last symbol to the first. -/
def rleEncode : List Symbol → List Run
  | [] => []
  | v :: rest => pushSymbol v (rleEncode rest)

/-- `RleDec` of R162: each pair expanded to its count of copies of its value. -/
def rleDecode (pairs : List Run) : List Symbol := pairs.flatMap fun p => List.replicate p.1 p.2

/-- The two words of a pair: `zext_32(run)` and `sext_32(v)` (R163). -/
def pairToWords (p : Run) : List Word := [BitVec.ofNat 32 p.1, p.2.signExtend 32]

/-- `RLE.ENC` (R163). -/
def execRleEnc (s : State) : Host.Outcome State Fault Refusal :=
  finish .rleEnc s do
    let pairs := rleEncode s.symbols
    return (s.withPairs (s.pBuf.writeList 0 0 (pairs.flatMap pairToWords)) (2 * pairs.length)).withE
      (emptyInput s.slen.toNat)

/-- `RLE.DEC` (R166): replaces the symbol sequence. -/
def execRleDec (s : State) : Host.Outcome State Fault Refusal :=
  finish .rleDec s do
    let pairs ← checkExpansion s
    let symbols := rleDecode pairs
    return (s.withSymbols (s.sBuf.writeList 0 0 symbols) symbols.length).withE (emptyInput s.plen.toNat)

end Sys2Proof.Machine
end

