-- ==== Sys2Proof/Machine/ZigZag.lean ====
section
/-! DEFINITION. The ZigZag unit: `ZZ.SER` and `ZZ.DES` (42_zigzag.md). -/

namespace Sys2Proof.Machine

/-- The elements of a block in scan order: the `k`-th is `Z[ZZROM[k]]` (R144). -/
def serialize (z : Block Symbol) : List Symbol := (List.range 64).map fun k => blockAt z (zzRom k)

/-- The block whose element `ZZROM[k]` is `seq k`, written for `k` = 0, 1, …, 63 over `old` (R145). Because `ZZROM` is a
permutation, nothing of `old` is left. -/
def deserialize (seq : Nat → Symbol) (old : Block Symbol) : Block Symbol :=
  (List.range 64).foldl (fun z k => z.setIfInBounds (zzRom k) (seq k)) old

/-- `ZZ.SER rows, cols` (R144): appends the block at `SLEN`. -/
def execZzSer (rows cols : Nat) (s : State) : Host.Outcome State Fault Refusal :=
  finish (.zzSer rows cols) s do
    checkShape rows cols
    checkRoom s
    return s.withSymbols (s.sBuf.writeList 0 s.slen.toNat (serialize s.z)) (s.slen.toNat + 64)

/-- `ZZ.DES n, blk` (R145): the block number `blk` of `S`. -/
def execZzDes (n blk : Nat) (s : State) : Host.Outcome State Fault Refusal :=
  finish (.zzDes n blk) s do
    checkLength n
    checkSlice s blk
    return s.withZ (deserialize (fun k => s.symbolAt (64 * blk + k)) s.z)

end Sys2Proof.Machine
end

