-- ==== Sys2Proof/Machine/Dispatch.lean ====
section
/-! DEFINITION. The meaning of each command (10_state.md R52): one arm per row of spec/opcode_table.json. The faulted gate
of R91 stands before it, in Command.lean. -/

namespace Sys2Proof.Machine

/-- Runs the rule of a command's mnemonic (R91). -/
def exec (i : Instr) (s : State) : Host.Outcome State Fault Refusal :=
  match i with
  | .nop => Sys2Proof.Machine.execNop s
  | .abort => Sys2Proof.Machine.execAbort s
  | .dctFwd rows cols => Sys2Proof.Machine.execDctFwd rows cols s
  | .dctInv rows cols => Sys2Proof.Machine.execDctInv rows cols s
  | .qntFwd rows cols => Sys2Proof.Machine.execQntFwd rows cols s
  | .qntInv rows cols => Sys2Proof.Machine.execQntInv rows cols s
  | .zzSer rows cols => Sys2Proof.Machine.execZzSer rows cols s
  | .zzDes n blk => Sys2Proof.Machine.execZzDes n blk s
  | .rleEnc => Sys2Proof.Machine.execRleEnc s
  | .rleDec => Sys2Proof.Machine.execRleDec s
  | .hufBuild => Sys2Proof.Machine.execHufBuild s
  | .hufPack => Sys2Proof.Machine.execHufPack s

end Sys2Proof.Machine
end

