-- ==== Sys2Proof/Machine/Command.lean ====
section
/-! DEFINITION. Executing a command word (30_encoding.md R91), with the faulted gate (60_exceptions.md R273). -/

namespace Sys2Proof.Machine

/-- While the engine is faulted only `ABORT` runs; any other word, legal or not, has no effect at all (R91, R273). -/
def executeFaulted (word : Word) (s : State) : Host.Outcome State Fault Refusal :=
  if decode word = .ok .abort then exec .abort s else .next s

/-- `Execute(w)` of R91: the gate, then `IllegalCommand` for a word that is no command (R89, R263), then the command. -/
def execute (word : Word) (s : State) : Host.Outcome State Fault Refusal :=
  if s.faulted then executeFaulted word s
  else
    match decode word with
    | .ok i => exec i s
    | .error _ => .next (s.raise word ⟨.illegalCommand, 0⟩)

end Sys2Proof.Machine
end

