-- ==== Sys2Proof/Machine/HostPort.lean ====
section
/-! DEFINITION. The host port (20_memory.md R60 to R65): reads and writes of one element, what is refused with `buserr`, the
register file (10_state.md R31), and one action of the host (30_encoding.md R93). -/

namespace Sys2Proof.Machine

/-- The number of elements of a space (R60). -/
def State.size (s : State) : Space → Nat
  | .reg => 18
  | .x => 64
  | .f => 64
  | .z => 64
  | .s => s.params.smax
  | .p => s.params.pmax
  | .freq => 65536
  | .code => 65536
  | .bs => s.params.bsmax
  | .cos => 64
  | .coef => 64
  | .qrom => 64 * s.params.nprof
  | .zzrom => 64

/-- What register number `i` reads as (R31, R34 to R49); bits a register does not have read 0. -/
def State.readReg (s : State) (i : Nat) : Word :=
  match i with
  | 0 => Config.idWord
  | 1 => 0
  | 2 => s.statusWord
  | 3 => s.err.setWidth 32
  | 4 => s.errCmd
  | 5 => s.errTag
  | 6 => s.errInfo
  | 7 => s.tag
  | 8 => s.prof.setWidth 32
  | 9 => s.slen.setWidth 32
  | 10 => s.plen.setWidth 32
  | 11 => s.nsym.setWidth 32
  | 12 => s.bitLen
  | 13 => s.bsLen
  | 14 => s.flagsWord
  | 15 => BitVec.ofNat 32 s.params.smax
  | 16 => BitVec.ofNat 32 Config.clMax
  | 17 => BitVec.ofNat 32 s.params.nprof
  | _ => 0

/-- The first accepted write of `PROF` chooses the profile and locks it (R42). -/
def State.writeProf (s : State) (v : Word) : Option State :=
  if s.plock = false ∧ v.toNat < 256 ∧ v.toNat < s.params.nprof then
    some { s with prof := v.setWidth 8, plock := true }
  else none

/-- A write of `SLEN` is refused above `SMAX` (R43, log 10). -/
def State.writeSlen (s : State) (v : Word) : Option State :=
  if v.toNat ≤ s.params.smax then some { s with slen := v.setWidth 23 } else none

/-- A write of `PLEN` is refused above `PMAX` (R44, log 10). -/
def State.writePlen (s : State) (v : Word) : Option State :=
  if v.toNat ≤ s.params.pmax then some { s with plen := v.setWidth 24 } else none

/-- A host write to register number `i`, other than `CMD`: the state after it, or nothing where the port refuses it (R41
to R44, R63, R64). -/
def State.writeReg (s : State) (i : Nat) (v : Word) : Option State :=
  match i with
  | 7 => some { s with tag := v }
  | 8 => s.writeProf v
  | 9 => s.writeSlen v
  | 10 => s.writePlen v
  | _ => none

/-- The element stored at index `i` of a space, `i` in the space's index range (R60, R62). -/
def State.element (s : State) (space : Space) (i : Nat) : Elem :=
  match space with
  | .reg => .word (s.readReg i)
  | .x => .float (blockAt s.x i)
  | .f => .float (blockAt s.f i)
  | .z => .symbol (blockAt s.z i)
  | .s => .symbol (s.symbolAt i)
  | .p => .word (s.pairWordAt i)
  | .freq => .weight (s.freq.read 0 i)
  | .code => .code (s.code.read CodeEntry.empty i)
  | .bs => .byte (s.byteAt i)
  | .cos => .float (cosRom i)
  | .coef => .float (coefRom i)
  | .qrom => .byte (qRom s.params i)
  | .zzrom => .position (BitVec.ofNat 6 (zzRom i))

/-- `HostRead(space, i)` (R62). -/
def hostRead (space : Space) (i : Nat) (s : State) : HostAnswer :=
  if i < s.size space then .value (s.element space i) else .busErr

/-- The state with element `i` of a host-writable space replaced by a value of its type; nothing where the space is not
host-writable or the value is of another type (R60, R63, R64, log 7). -/
def State.store (s : State) (space : Space) (i : Nat) (e : Elem) : Option State :=
  match space, e with
  | .reg, .word v => s.writeReg i v
  | .x, .float v => some { s with x := s.x.setIfInBounds i v }
  | .f, .float v => some { s with f := s.f.setIfInBounds i v }
  | .z, .symbol v => some { s with z := s.z.setIfInBounds i v }
  | .s, .symbol v => some { s with sBuf := s.sBuf.write 0 i v }
  | .p, .word v => some { s with pBuf := s.pBuf.write 0 i v }
  | _, _ => none

/-- `HostWrite(space, i, e)` other than a write of `CMD`: the state after it, or nothing where the answer is `buserr`
(R63, R64). -/
def hostWrite (space : Space) (i : Nat) (e : Elem) (s : State) : Option State :=
  if i < s.size space then s.store space i e else none

/-- The command word that a host write delivers: a word written to index 1, `CMD`, of the `REG` space (R35, R63). -/
def commandWord (space : Space) (i : Nat) (e : Elem) : Option Word :=
  match space, i, e with
  | .reg, 1, .word w => some w
  | _, _, _ => none

/-- A write that is not a command: stored and answered `ok`, or answered `buserr` with nothing changed (R63, R64). -/
def answerWrite (space : Space) (i : Nat) (e : Elem) (s : State) : State :=
  match hostWrite space i e s with
  | some t => t.answered .ok
  | none => s.answered .busErr

/-- One action of the host (R93). A write of `CMD` executes the command and then answers `ok` whatever its outcome (R63);
a read changes nothing but the log of answers (R62); a reset has no answer. -/
def perform (a : HostAction) (s : State) : Host.Outcome State Fault Refusal :=
  match a with
  | .read space i => .next (s.answered (hostRead space i s))
  | .write space i e =>
    match commandWord space i e with
    | some w => onNext (execute w s) fun t => t.answered .ok
    | none => .next (answerWrite space i e s)
  | .reset => .next s.afterReset

/-- The oldest pending action is served, whole, before the next (R71); with nothing pending the engine is idle and
nothing changes (R7, R302). -/
def serve (s : State) : Host.Outcome State Fault Refusal :=
  match s.pending with
  | [] => .next s
  | a :: rest => perform a (s.withPending rest)

/-- The host action that delivers a command word: `HostWrite(REG, 1, w)` (R35, R93). -/
def commandAction (w : Word) : HostAction := .write .reg 1 (.word w)

end Sys2Proof.Machine
end

