-- ==== Sys2Proof/Machine/Step.lean ====
section
/-! DEFINITION. The step: one access of the host to the port, served whole (20_memory.md R71). A command is one step
(00_scope.md R6), because the write that delivers it completes when the command has (R35). -/

namespace Sys2Proof.Machine

/-- One step of the machine. -/
def step (s : State) : Host.Outcome State Fault Refusal := serve s

/-- `s` with the command word of a table row as the host's next action, a write of it to `CMD`. The engine has no
program counter and no fetch (R24): the command is delivered by the write that starts it (R74, log 2). -/
def State.withFetchWord (s : State) (nbits w : Nat) : State :=
  s.withPending (commandAction (tableWord nbits w) :: s.pending)

end Sys2Proof.Machine
end

