-- ==== Sys2Proof/Machine/HostSequences.lean ====
section
/-! DEFINITION. The pseudo-instructions (30_encoding.md R94, 46_host_sequences.md R230 to R235) and the host's duties around
the engine as functions and lists of host actions (R237 to R241, R245, R246). The engine does none of this; it is here so that
end-to-end statements can be made. The host's colour transform is outside (00_scope.md R5). -/

namespace Sys2Proof.Machine

/-! ## Pseudo-instructions -/

/-- `BLOCK.ENC` (R231). -/
def blockEnc : List Instr := [.dctFwd 8 8, .qntFwd 8 8, .zzSer 8 8]

/-- `BLOCK.RT` (R232). -/
def blockRT : List Instr := [.dctFwd 8 8, .qntFwd 8 8, .qntInv 8 8, .dctInv 8 8]

/-- `BLOCK.DEC blk` (R233). -/
def blockDec (blk : Nat) : List Instr := [.zzDes 64 blk, .qntInv 8 8, .dctInv 8 8]

/-- `HUF.ENCODE` (R234). -/
def hufEncode : List Instr := [.rleEnc, .hufBuild, .hufPack]

/-- The writes of `CMD` that deliver a list of commands, one after the other (R93, R230). -/
def commandActions (l : List Instr) : List HostAction := l.map fun i => commandAction (encode i)

/-- `WR REG.number, value` (R93). -/
def writeRegister (number : Nat) (v : Word) : HostAction := .write .reg number (.word v)

/-! ## Samples (R241) -/

/-- An 8-bit sample as it is loaded into `X`, exactly and without a shift (R241). -/
def loadSample (v : Byte) : F64 := ofInt v.toNat

/-- `sample8` of R241: a finite value rounded half away from zero and clamped to 0..255. R241 defines it for a finite
value only; the sample of an infinity or a NaN is a free value (DESIGN CHOICE, log 11). -/
def sample8 (a : F64) : Byte :=
  if isFinite a then BitVec.ofInt 8 (min 255 (max 0 (rhaz a))) else Config.nonFiniteSample a

/-! ## Planes and blocks (R237 to R239) -/

/-- A single-channel plane: the sample at row `r`, column `c` (R237). -/
abbrev Plane := Nat → Nat → Byte

/-- The index in an interleaved pixel buffer of the sample of channel `ch` of the pixel at row `y`, column `x` (R237). -/
def pixelIndex (width y x ch : Nat) : Nat := 3 * (y * width + x) + ch

/-- The padded size of a dimension: the next multiple of 8 (R238). -/
def paddedSize (n : Nat) : Nat := 8 * ((n + 7) / 8)

/-- The padded plane: the nearest valid sample repeated into the padding (R238). -/
def paddedSample (plane : Plane) (rows cols r c : Nat) : Byte :=
  plane (min r (rows - 1)) (min c (cols - 1))

/-- The 64 samples of block `(br, bc)` of a padded plane, row-major (R239). -/
def blockSamples (plane : Plane) (rows cols br bc : Nat) : List Byte :=
  (List.range 64).map fun k => paddedSample plane rows cols (8 * br + k / 8) (8 * bc + k % 8)

/-- `WR X[0..63]` with samples, in ascending order (R93, R241). -/
def loadBlock (samples : List Byte) : List HostAction :=
  samples.zipIdx.map fun c => .write .x c.2 (.float (loadSample c.1))

/-- The fault context `tag(ch, br, bc)` (R245). -/
def contextTag (ch br bc : Nat) : Word := BitVec.ofNat 32 (ch * 2 ^ 30 + br * 2 ^ 15 + bc)

/-- The host's work on one block of the encode path (R239): the context, the samples, `BLOCK.ENC`. -/
def encodeBlockActions (plane : Plane) (rows cols ch br bc : Nat) : List HostAction :=
  writeRegister 7 (contextTag ch br bc) ::
    (loadBlock (blockSamples plane rows cols br bc) ++ commandActions blockEnc)

/-- The blocks of a plane in row-major order (R239). -/
def blockOrder (rows cols : Nat) : List (Nat × Nat) :=
  (List.range (paddedSize rows / 8)).flatMap fun br =>
    (List.range (paddedSize cols / 8)).map fun bc => (br, bc)

/-- The host's work on one channel of the encode path (R239): a new stream, every block in order, `HUF.ENCODE`, and the
reads of the lengths `BITLEN`, `BSLEN` and `NSYM`. -/
def encodeChannelActions (plane : Plane) (rows cols ch : Nat) : List HostAction :=
  writeRegister 9 0 ::
    ((blockOrder rows cols).flatMap (fun b => encodeBlockActions plane rows cols ch b.1 b.2) ++
      commandActions hufEncode ++ [.read .reg 12, .read .reg 13, .read .reg 11])

/-- The reads of a finished channel (R239): the `bsLen` bytes of the stream, and the `CODE` entries of the symbols that
have one. -/
def readStreamActions (bsLen : Nat) (syms : List Symbol) : List HostAction :=
  (List.range bsLen).map (fun q => .read .bs q) ++ syms.map fun v => .read .code (symbolIndex v)

/-! ## Reconstruction: running host actions and placing blocks (R240, R246) -/

/-- The state after one host action on its own; a stop, of which there is none (log 9), would leave the state. -/
def performOne (s : State) (a : HostAction) : State :=
  match perform a s with
  | .next t => t
  | .fault _ => s
  | .refused _ => s

/-- The state after a list of host actions, first to last (R93, R230). -/
def performAll (l : List HostAction) (s : State) : State := l.foldl performOne s

/-- `RD X[0..63]`, in ascending order (R93). -/
def readBlock : List HostAction := (List.range 64).map fun k => .read .x k

/-- The sample that the host stores for an answer to a read of `X` (R241), the free one of log 11 where the element is an
infinity or a NaN; any other answer carries none. -/
def storedSample : HostAnswer → Option Byte
  | .value (.float a) => some (sample8 a)
  | .value _ => none
  | .ok => none
  | .busErr => none

/-- The samples of the last 64 answers, oldest first: those of a `readBlock` that has just been served (log 1). -/
def readSamples (s : State) : List Byte := (s.answers.take 64).reverse.filterMap storedSample

/-- A plane with the 64 samples of block `(br, bc)` placed, row-major (R239). A `readBlock` gives all 64, so the default
of the list access is never read. -/
def placeBlock (br bc : Nat) (samples : List Byte) (plane : Plane) : Plane := fun r c =>
  if r / 8 = br ∧ c / 8 = bc then samples.getD (8 * (r % 8) + c % 8) 0 else plane r c

/-- The host's work on a list of blocks, each with its number: the actions `work` of a block, which end with `readBlock`,
then `sample8` of what was read, then the placing of the block. -/
def reconstruct (work : (b br bc : Nat) → List HostAction) :
    List ((Nat × Nat) × Nat) → State → Plane → State × Plane
  | [], s, plane => (s, plane)
  | ((br, bc), b) :: rest, s, plane =>
    let t := performAll (work b br bc) s
    reconstruct work rest t (placeBlock br bc (readSamples t) plane)

/-- A plane of zeros, for the placing to start from. -/
def blankPlane : Plane := fun _ _ => 0

/-- The host's work on one block of the round-trip path (R240): the context, the samples, `BLOCK.RT`, the reads of `X`. -/
def roundTripBlockActions (plane : Plane) (rows cols ch br bc : Nat) : List HostAction :=
  writeRegister 7 (contextTag ch br bc) ::
    (loadBlock (blockSamples plane rows cols br bc) ++ commandActions blockRT ++ readBlock)

/-- The round trip of one channel (R240): the state after it and the output plane, whose first `rows` rows and `cols`
columns are the channel, the rest being the padding that the host crops. -/
def roundTripChannel (plane : Plane) (rows cols ch : Nat) (s : State) : State × Plane :=
  reconstruct (fun _ br bc => roundTripBlockActions plane rows cols ch br bc)
    (blockOrder rows cols).zipIdx s blankPlane

/-! ## The reverse path (R246) -/

/-- `WR S[0..|out|)`, then `|out|` to `SLEN` (R246). -/
def loadSymbols (out : List Symbol) : List HostAction :=
  out.zipIdx.map (fun c => .write .s c.2 (.symbol c.1)) ++ [writeRegister 9 (BitVec.ofNat 32 out.length)]

/-- The host's work on block number `b` of the reverse path (R246): `BLOCK.DEC b`, then the reads of `X`. -/
def reverseBlockActions (b : Nat) : List HostAction := commandActions (blockDec b) ++ readBlock

/-- The reverse path of one encoded channel (R246): decode the stream with its table, write the symbols back, then every
block in row-major order, the `b`-th being block number `b` of `S`. Nothing where the decoder reports an error (R206). -/
def reverseChannel (rows cols : Nat) (bytes : Memory Byte) (bitLen : Nat) (table : Memory CodeEntry) (s : State) :
    Option (State × Plane) :=
  (hufDecode bytes bitLen table).map fun out =>
    reconstruct (fun b _ _ => reverseBlockActions b) (blockOrder rows cols).zipIdx
      (performAll (loadSymbols out) s) blankPlane

end Sys2Proof.Machine
end

