-- ==== Sys2Proof/Safety.lean ====
section
/-! DEFINITION. The terms that claims are stated in: the invariants of 10_state.md R57, what fault entry leaves
(60_exceptions.md R272), well-formed and maximal pair lists (43_rle.md R161, R164). -/

namespace Sys2Proof.Machine

/-! ## Parameters -/

/-- The parameters an engine can have (R8, R121): the bounds on `SMAX`, at least two profiles, the first all ones, the
last the luminance matrix, every entry at least 1. `NPROF` fits the 32-bit register that reads it (R49, log 5). -/
structure LegalParams (c : Params) : Prop where
  smax_low : 64 ≤ c.smax
  smax_high : c.smax ≤ 2 ^ 22
  smax_blocks : c.smax % 64 = 0
  two_profiles : 2 ≤ c.nprof
  nprof_fits : c.nprof < 2 ^ 32
  entries_positive : ∀ q ∈ c.qcat, ∀ k, k < 64 → 1 ≤ (blockAt q k).toNat
  first_ones : c.qcat.head? = some onesProfile
  last_luminance : c.qcat.getLast? = some luminanceProfile

/-! ## Invariants (R33, R57) -/

/-- The ranges of the registers (R33, R57, R36), with the bound on the lengths in `CODE` that `BITLEN` rests on. -/
structure RegisterRanges (s : State) : Prop where
  params : LegalParams s.params
  slen : s.slen.toNat ≤ s.params.smax
  plen : s.plen.toNat ≤ s.params.pmax
  bitLen : s.bitLen.toNat ≤ s.params.smax * Config.clMax
  bsLen : s.bsLen.toNat = (s.bitLen.toNat + 7) / 8
  nsym : s.nsym.toNat ≤ 65536
  prof : s.prof.toNat < s.params.nprof
  err : s.err.toNat ≤ 8
  faulted : s.faulted = true ↔ s.err ≠ 0
  codeLen : ∀ c ∈ s.code, c.2.len.toNat ≤ Config.clMax

/-- The sparse buffers and tables are in canonical form and inside their capacities (R60). -/
structure BuffersCanonical (s : State) : Prop where
  sBuf : Memory.wf 0 s.sBuf ∧ Memory.below s.params.smax s.sBuf
  pBuf : Memory.wf 0 s.pBuf ∧ Memory.below s.params.pmax s.pBuf
  bs : Memory.wf 0 s.bs ∧ Memory.below s.params.bsmax s.bs
  freq : Memory.wf 0 s.freq ∧ Memory.below 65536 s.freq
  code : Memory.wf CodeEntry.empty s.code ∧ Memory.below 65536 s.code

/-- The code table (R57, R28, R196): `NSYM` counts the symbols with a weight and the symbols with a code; an entry's bits
fit its length, which is 1 to `CLMAX`; no code string is a prefix of another. -/
structure CodeTableSound (s : State) : Prop where
  freqCanonical : Memory.wf 0 s.freq ∧ Memory.below 65536 s.freq
  codeCanonical : Memory.wf CodeEntry.empty s.code ∧ Memory.below 65536 s.code
  nsymFreq : ((Finset.range 65536).filter fun i => s.freq.read 0 i ≠ 0).card = s.nsym.toNat
  nsymCode : ((Finset.range 65536).filter fun i => (s.code.read CodeEntry.empty i).len ≠ 0).card = s.nsym.toNat
  entry : ∀ c ∈ s.code, 1 ≤ c.2.len.toNat ∧ c.2.len.toNat ≤ Config.clMax ∧ c.2.bits.toNat < 2 ^ c.2.len.toNat
  prefixFree : ∀ c ∈ s.code, ∀ d ∈ s.code, c.2.string <+: d.2.string → c = d

/-! ## Faults -/

/-- `t` is `s` after fault entry with a code of R261 and a word for `ERRINFO`: the five assignments of R272 and nothing
else. -/
def FaultEntry (errCode : BitVec 8) (info : Nat) (word : Word) (s t : State) : Prop :=
  t = { s with
    err := errCode
    errCmd := word
    errTag := s.tag
    errInfo := BitVec.ofNat 32 info
    faulted := true }

/-- The codes of the faults a command can raise (R261, column "raised by"). -/
def faultCodesOf : Instr → List (BitVec 8)
  | .nop => []
  | .abort => []
  | .dctFwd _ _ => [1]
  | .dctInv _ _ => [1]
  | .qntFwd _ _ => [1, 3, 5]
  | .qntInv _ _ => [1, 3]
  | .zzSer _ _ => [1, 4]
  | .zzDes _ _ => [1, 4]
  | .rleEnc => []
  | .rleDec => [4, 6]
  | .hufBuild => [6, 8]
  | .hufPack => [7]

/-! ## Host accesses -/

/-- The value is of the element type that the space has on the port (R60). -/
def Elem.ofSpace (e : Elem) (space : Space) : Bool :=
  match space, e with
  | .reg, .word _ => true
  | .x, .float _ => true
  | .f, .float _ => true
  | .z, .symbol _ => true
  | .s, .symbol _ => true
  | .p, .word _ => true
  | .freq, .weight _ => true
  | .code, .code _ => true
  | .bs, .byte _ => true
  | .cos, .float _ => true
  | .coef, .float _ => true
  | .qrom, .byte _ => true
  | .zzrom, .position _ => true
  | _, _ => false

/-- A host write, other than of `CMD`, that R64 lists as refused: (a) to (f). -/
def RefusedWrite (s : State) (space : Space) (i : Nat) (e : Elem) : Prop :=
  s.size space ≤ i
  ∨ space ∈ [Space.freq, Space.code, Space.bs, Space.cos, Space.coef, Space.qrom, Space.zzrom]
  ∨ (space = .reg ∧ i ∈ [0, 2, 3, 4, 5, 6, 11, 12, 13, 14, 15, 16, 17])
  ∨ (space = .reg ∧ i = 8 ∧
      ∃ v : Word, e = .word v ∧ (s.plock = true ∨ v.toNat / 256 ≠ 0 ∨ s.params.nprof ≤ v.toNat % 256))
  ∨ (space = .reg ∧ i = 9 ∧ ∃ v : Word, e = .word v ∧ s.params.smax < v.toNat)
  ∨ (space = .reg ∧ i = 10 ∧ ∃ v : Word, e = .word v ∧ s.params.pmax < v.toNat)

/-! ## Pair lists and runs -/

/-- Count word and value word of pair `k` are as R164 (b) and (c) ask. -/
def GoodPair (words : List Word) (k : Nat) : Prop :=
  words.getD (2 * k) 0 ≠ 0 ∧ -32768 ≤ (words.getD (2 * k + 1) 0).toInt ∧ (words.getD (2 * k + 1) 0).toInt ≤ 32767

/-- A pair list is well formed (R164). -/
def WellFormedPairs (words : List Word) : Prop :=
  words.length % 2 = 0 ∧ ∀ k, 2 * k + 1 < words.length → GoodPair words k

/-- Pair `k` of a list of words (R26): the count, and the low half of the value word. -/
def wordPair (words : List Word) (k : Nat) : Run :=
  ((words.getD (2 * k) 0).toNat, (words.getD (2 * k + 1) 0).setWidth 16)

/-- The pairs of a list of words (R26). -/
def pairsOfWords (words : List Word) : List Run := (List.range (words.length / 2)).map (wordPair words)

/-- The sum of the counts of the first `k` pairs (R166). -/
def totalOfPairs (words : List Word) (k : Nat) : Nat := ((List.range k).map fun j => (wordPair words j).1).sum

/-- `pairs` are the maximal runs of `l` (R161): they expand to `l`, every count is at least 1, and neighbouring pairs
have different values. -/
def MaximalRuns (pairs : List Run) (l : List Symbol) : Prop :=
  pairs.flatMap (fun p => List.replicate p.1 p.2) = l ∧ (∀ p ∈ pairs, 1 ≤ p.1) ∧
    (pairs.map Prod.snd).IsChain (· ≠ ·)

/-! ## Trees -/

/-- At every internal node the left child is lower than the right child, and the frequency is the sum of theirs
(R181, R188). -/
def HufTree.Ordered : HufTree → Prop
  | .leaf _ _ _ => True
  | .node w _ l r => l.lower r = true ∧ w = l.freq + r.freq ∧ l.Ordered ∧ r.Ordered

/-- The path leads from the root to a leaf of symbol `v`, a 0 standing for a left edge and a 1 for a right edge (R189). -/
def HufTree.LeafAt (v : Symbol) : HufTree → List Bool → Prop
  | .leaf u _ _, path => path = [] ∧ u = v
  | .node _ _ _ _, [] => False
  | .node _ _ l _, false :: path => l.LeafAt v path
  | .node _ _ _ r, true :: path => r.LeafAt v path

end Sys2Proof.Machine
end

