-- ==== Sys2Proof/Certificates/Slice0/Obligations.lean ====
section
/-! DEFINITION. The statements for the provers, from the numbered rules of spec/. A frame is written `t = { s with … }`: every
field that is not named there is unchanged. -/

open Sys2Proof Sys2Proof.Machine

/-! ## Encoding (30_encoding.md) -/

/-- R81, R88, R92: decoding the word of a well-formed command gives the command back, with every operand at every value
its field admits. -/
def Obligations.EncodedCommandDecodesToItself : Prop :=
  ∀ i : Instr, i.wellFormed = true → decode (encode i) = .ok i

/-- R88, R92: a word that decodes is the word of its command, which is well formed; and no word matches two rows. -/
def Obligations.DecodedWordIsTheWordOfItsCommand : Prop :=
  (∀ (w : Word) (i : Instr), decode w = .ok i → i.wellFormed = true ∧ encode i = w) ∧
  opRows.Pairwise fun r q => ∀ w : Word, ¬ (w &&& r.mask = r.pattern ∧ w &&& q.mask = q.pattern)

/-- R86, R87, R89: the words that decode are those with an assigned opcode and no must-be-zero bit set; every other word is
illegal. -/
def Obligations.LegalWordsAreExactlyThoseOfTheMap : Prop :=
  ∀ w : Word, (∃ i, decode w = .ok i) ↔
    (w.toNat / 2 ^ 24 ∈ [0x00, 0x01, 0x40, 0x41, 0x50, 0x51] ∧ w.toNat % 2 ^ 24 = 0) ∨
    (w.toNat / 2 ^ 24 ∈ [0x10, 0x11, 0x20, 0x21, 0x30] ∧ w.toNat % 2 ^ 16 = 0) ∨
    w.toNat / 2 ^ 24 = 0x31

/-- R87: the canonical words of the opcode map, and two words with other operands. -/
def Obligations.CanonicalWordsDecode : Prop :=
  decode 0x00000000 = .ok .nop ∧ decode 0x01000000 = .ok .abort ∧
  decode 0x10880000 = .ok (.dctFwd 8 8) ∧ decode 0x11880000 = .ok (.dctInv 8 8) ∧
  decode 0x20880000 = .ok (.qntFwd 8 8) ∧ decode 0x21880000 = .ok (.qntInv 8 8) ∧
  decode 0x30880000 = .ok (.zzSer 8 8) ∧ decode 0x31400001 = .ok (.zzDes 64 1) ∧
  decode 0x40000000 = .ok .rleEnc ∧ decode 0x41000000 = .ok .rleDec ∧
  decode 0x50000000 = .ok .hufBuild ∧ decode 0x51000000 = .ok .hufPack ∧
  decode 0x10780000 = .ok (.dctFwd 7 8) ∧ decode 0x313F0009 = .ok (.zzDes 63 9)

/-! ## The step and the faulted gate (30_encoding.md R91, 60_exceptions.md R273) -/

/-- R35, R63, R91: with a write of `CMD` next, on an unfaulted engine, a step executes the command that the word decodes to,
on the state with that action taken, and then answers `ok`. The queue of host actions is the model's (log 1). -/
def Obligations.StepRunsTheDecodedCommand : Prop :=
  ∀ (s : State) (w : Word) (i : Instr) (rest : List HostAction),
    s.pending = .write .reg 1 (.word w) :: rest → s.faulted = false → decode w = .ok i →
    ∃ t, exec i { s with pending := rest } = .next t ∧
      step s = .next { t with answers := .ok :: t.answers }

/-- R263: a word that is no command takes `IllegalCommand`, with `ERRINFO` 0 and the word in `ERRCMD`.
The queue of host actions and the log of answers are the model's (log 1). -/
def Obligations.IllegalWordTakesIllegalCommand : Prop :=
  ∀ (s : State) (w : Word) (e : Illegal) (rest : List HostAction),
    s.pending = .write .reg 1 (.word w) :: rest → s.faulted = false → decode w = .error e →
    step s = .next { s with
      err := 2, errCmd := w, errTag := s.tag, errInfo := 0, faulted := true
      pending := rest, answers := .ok :: s.answers }

/-- R273, R221: while the engine is faulted, a write of any word other than `ABORT` (0x01000000) to `CMD` changes nothing
and is answered `ok`; `ABORT` runs. The queue of host actions and the log of answers are the model's (log 1). -/
def Obligations.FaultedEngineRunsOnlyAbort : Prop :=
  ∀ (s : State) (w : Word) (rest : List HostAction),
    s.pending = .write .reg 1 (.word w) :: rest → s.faulted = true →
    (w ≠ 0x01000000 → step s = .next { s with pending := rest, answers := .ok :: s.answers }) ∧
    (w = 0x01000000 → ∃ t, exec .abort { s with pending := rest } = .next t ∧
      step s = .next { t with answers := .ok :: t.answers })

/-- R7, R302: nothing executes until the host acts. That a step with no host action pending leaves the state as it is, is
the model's choice (log 1). -/
def Obligations.IdleEngineDoesNothing : Prop :=
  ∀ s : State, s.pending = [] → step s = .next s

/-- R54, R55: after a reset every register reads as the column "reset" of R31 says, and both tables are cleared. That
a reset is an action of the host's queue, and keeps the parameters, is the model's (log 1, log 5). -/
def Obligations.ResetSetsRegistersAndTables : Prop :=
  ∀ (s : State) (rest : List HostAction), s.pending = .reset :: rest →
    ∃ t, step s = .next t ∧ t.params = s.params ∧ t.readReg 0 = 0x43465307 ∧
      (∀ i, 1 ≤ i → i ≤ 14 → t.readReg i = 0) ∧
      t.readReg 15 = BitVec.ofNat 32 s.params.smax ∧ t.readReg 16 = 32 ∧
      t.readReg 17 = BitVec.ofNat 32 s.params.nprof ∧
      ∀ v : Symbol, t.weightOf v = 0 ∧ t.codeEntryOf v = ⟨0, 0⟩

/-- 93_implementation_defined.md part 1, R91, R62, R63: every command in every state, and every step, has a next state. -/
def Obligations.EngineNeverStops : Prop :=
  (∀ (i : Instr) (s : State), ∃ t, exec i s = .next t) ∧ ∀ s : State, ∃ t, step s = .next t

/-! ## The host port (20_memory.md) -/

/-- R60, R62: a read answers the element stored where the index is in range and `buserr` elsewhere; `CMD` answers 0; it
changes nothing else. What is stored at an index of a space is the register, block element, sequence element, table entry
of the symbol with that 16-bit pattern, byte or ROM entry that R60 names. The queue of host actions and the log of answers
are the model's (log 1). -/
def Obligations.HostReadHasNoSideEffect : Prop :=
  (∀ (s : State) (space : Space) (i : Nat) (rest : List HostAction), s.pending = .read space i :: rest →
    s.readReg 1 = 0 ∧
    (i < s.size space →
      step s = .next { s with pending := rest, answers := .value (s.element space i) :: s.answers }) ∧
    (s.size space ≤ i → step s = .next { s with pending := rest, answers := .busErr :: s.answers })) ∧
  (∀ (s : State) (i : Nat),
    s.element .reg i = .word (s.readReg i) ∧ s.element .x i = .float (blockAt s.x i) ∧
    s.element .f i = .float (blockAt s.f i) ∧ s.element .z i = .symbol (blockAt s.z i) ∧
    s.element .s i = .symbol (s.symbolAt i) ∧ s.element .p i = .word (s.pairWordAt i) ∧
    s.element .bs i = .byte (s.byteAt i) ∧ s.element .cos i = .float (cosRom i) ∧
    s.element .coef i = .float (coefRom i) ∧ s.element .qrom i = .byte (qRom s.params i) ∧
    s.element .zzrom i = .position (BitVec.ofNat 6 (zzRom i))) ∧
  (∀ (s : State) (v : Symbol),
    s.element .freq v.toNat = .weight (s.weightOf v) ∧ s.element .code v.toNat = .code (s.codeEntryOf v)) ∧
  ∀ (s : State) (p j : Nat) (h : p < s.params.qcat.length), j < 64 →
    s.element .qrom (64 * p + j) = .byte (blockAt s.params.qcat[p] j)

/-- R64: a write of a value of the space's element type, other than of `CMD`, is refused exactly in the listed cases; a
refused write changes nothing but the log of answers, which is the model's (log 1). That the whole 32-bit value written to
`SLEN` or `PLEN` is compared with `SMAX` or `PMAX` is the model's reading of R31, R43, R44 and R64 (DEDUCED, log 10). -/
def Obligations.HostWriteIsRefusedExactlyAsListed : Prop :=
  ∀ (s : State) (space : Space) (i : Nat) (e : Elem) (rest : List HostAction),
    s.pending = .write space i e :: rest → e.ofSpace space = true → ¬ (space = .reg ∧ i = 1) →
    (RefusedWrite s space i e →
      step s = .next { s with pending := rest, answers := .busErr :: s.answers }) ∧
    (¬ RefusedWrite s space i e →
      ∃ t, hostWrite space i e { s with pending := rest } = some t ∧
        step s = .next { t with answers := .ok :: t.answers })

/-- R63, R77: an accepted write of a data space stores the value at its index, changes no other element of any space and no
register. -/
def Obligations.HostWriteStoresOneElement : Prop :=
  ∀ (s t : State) (space : Space) (i : Nat) (e : Elem), space ≠ .reg → hostWrite space i e s = some t →
    t.element space i = e ∧
    (∀ other j, ¬ (other = space ∧ j = i) → t.element other j = s.element other j) ∧
    t = { s with x := t.x, f := t.f, z := t.z, sBuf := t.sBuf, pBuf := t.pBuf }

/-- R41 to R44: what a host write does to `TAG`, `PROF`, `SLEN`, `PLEN`. That the whole 32-bit value is compared with `SMAX`
and `PMAX` is read from R43, R44 and R64 (log 10). -/
def Obligations.HostWritesOfRegisters : Prop :=
  ∀ (s : State) (v : Word),
    hostWrite .reg 7 (.word v) s = some { s with tag := v } ∧
    hostWrite .reg 8 (.word v) s =
      (if s.plock = false ∧ v.toNat / 256 = 0 ∧ v.toNat % 256 < s.params.nprof then
        some { s with prof := BitVec.ofNat 8 v.toNat, plock := true } else none) ∧
    hostWrite .reg 9 (.word v) s =
      (if v.toNat ≤ s.params.smax then some { s with slen := BitVec.ofNat 23 v.toNat } else none) ∧
    hostWrite .reg 10 (.word v) s =
      (if v.toNat ≤ 2 * s.params.smax then some { s with plen := BitVec.ofNat 24 v.toNat } else none)

/-- R31, R34 to R49: in every state each register reads its own field: `STATUS` and `FLAGS` their bits at their places
and 0 elsewhere, the narrow registers their value with zeros above, the 32-bit registers their value, `ID` its constant,
`CMD` 0, and the `CAP_` registers the parameters. -/
def Obligations.RegistersReadTheirFields : Prop :=
  ∀ s : State,
    s.readReg 0 = 0x43465307 ∧ s.readReg 1 = 0 ∧
    (s.readReg 2).toNat = s.faulted.toNat + 2 * s.plock.toNat ∧
    (s.readReg 3).toNat = s.err.toNat ∧ s.readReg 4 = s.errCmd ∧ s.readReg 5 = s.errTag ∧
    s.readReg 6 = s.errInfo ∧ s.readReg 7 = s.tag ∧ (s.readReg 8).toNat = s.prof.toNat ∧
    (s.readReg 9).toNat = s.slen.toNat ∧ (s.readReg 10).toNat = s.plen.toNat ∧
    (s.readReg 11).toNat = s.nsym.toNat ∧ s.readReg 12 = s.bitLen ∧ s.readReg 13 = s.bsLen ∧
    (s.readReg 14).toNat = s.flagE.toNat + 2 * s.flagS1.toNat + 4 * s.flagPB.toNat ∧
    s.readReg 15 = BitVec.ofNat 32 s.params.smax ∧ s.readReg 16 = 32 ∧
    s.readReg 17 = BitVec.ofNat 32 s.params.nprof

/-! ## Rules of the whole machine -/

/-- R42, R282: once a profile has been chosen, only a reset unlocks it or changes it. -/
def Obligations.OnlyResetUnlocksTheProfile : Prop :=
  ∀ s t : State, step s = .next t → s.plock = true →
    s.pending.head? = some .reset ∨ (t.plock = true ∧ t.prof = s.prof)

/-- R58, R273, R276: while the engine is faulted, only `ABORT` and a reset clear the fault or change its record. -/
def Obligations.FaultRecordStaysUntilAbortOrReset : Prop :=
  ∀ s t : State, step s = .next t → s.faulted = true →
    s.pending.head? = some .reset ∨
    s.pending.head? = some (.write .reg 1 (.word 0x01000000)) ∨
    (t.faulted = true ∧ t.err = s.err ∧ t.errCmd = s.errCmd ∧ t.errTag = s.errTag ∧ t.errInfo = s.errInfo)

/-- R261, R272: a command that faults does the five assignments of fault entry and nothing else, with a code the table lists
for it; `NOP`, `ABORT` and `RLE.ENC` raise no fault. -/
def Obligations.FaultsArePreciseAndListed : Prop :=
  ∀ (i : Instr) (s t : State), s.faulted = false → exec i s = .next t → t.faulted = true →
    ∃ errCode ∈ faultCodesOf i, ∃ info, FaultEntry errCode info (encode i) s t

/-! ## Invariants (10_state.md R57) -/

/-- R33, R54, R55, R57: the state after reset meets the invariants. -/
def Obligations.ResetStateMeetsTheInvariants : Prop :=
  RegisterRanges State.reset ∧ BuffersCanonical State.reset ∧ CodeTableSound State.reset

/-- R33, R57: every step keeps the ranges of the registers, `NSYM` among them, and `ERR ≠ 0` exactly when `FAULT = 1`. -/
def Obligations.StepKeepsRegisterRanges : Prop :=
  ∀ s t : State, RegisterRanges s → step s = .next t → RegisterRanges t

/-- R60, R25 to R29: every step keeps the buffers and tables in canonical form and inside their capacities. The canonical
form is the model's. -/
def Obligations.StepKeepsBuffersCanonical : Prop :=
  ∀ s t : State, RegisterRanges s → BuffersCanonical s → step s = .next t → BuffersCanonical t

/-- R57, R28, R196: every step keeps the code table sound: `NSYM` counts the symbols with a weight and those with a code,
the bits fit the lengths, and the code strings are prefix free. -/
def Obligations.StepKeepsCodeTableSound : Prop :=
  ∀ s t : State, CodeTableSound s → step s = .next t → CodeTableSound t

/-! ## Control commands (45_control.md) -/

/-- R220: the zero word is `NOP`, which leaves every register and every buffer as it was. -/
def Obligations.NopChangesNothing : Prop :=
  decode 0x00000000 = .ok .nop ∧ ∀ s : State, exec .nop s = .next s

/-- R221: what `ABORT` clears, in every state, and that it leaves the rest alone. That it runs while the engine is faulted
is `FaultedEngineRunsOnlyAbort`. -/
def Obligations.AbortClearsFaultAndStream : Prop :=
  decode 0x01000000 = .ok .abort ∧ ∀ s : State, ∃ t, exec .abort s = .next t ∧
    t = { s with
      err := 0, errCmd := 0, errTag := 0, errInfo := 0, faulted := false
      slen := 0, plen := 0, nsym := 0, bitLen := 0, bsLen := 0
      flagE := false, flagS1 := false, flagPB := false, freq := t.freq, code := t.code } ∧
    ∀ v : Symbol, t.weightOf v = 0 ∧ t.codeEntryOf v = ⟨0, 0⟩

/-! ## Shape and profile (60_exceptions.md R262, R264) -/

/-- R262, R271: a block command with a declared shape other than 8 by 8, and `ZZ.DES` with a declared length other than 64,
take `DimensionMismatch` before any other check. -/
def Obligations.WrongShapeTakesDimensionMismatch : Prop :=
  ∀ s : State,
    (∀ rows cols, rows < 16 → cols < 16 → ¬ (rows = 8 ∧ cols = 8) →
      ∀ i ∈ [Instr.dctFwd rows cols, .dctInv rows cols, .qntFwd rows cols, .qntInv rows cols, .zzSer rows cols],
        ∃ t, exec i s = .next t ∧ FaultEntry 1 (rows * 16 + cols) (encode i) s t) ∧
    (∀ n blk, n < 256 → blk < 65536 → n ≠ 64 →
      ∃ t, exec (.zzDes n blk) s = .next t ∧ FaultEntry 1 n (encode (.zzDes n blk)) s t)

/-- R264: a quantizer command before a profile has been chosen takes `NotConfigured`. -/
def Obligations.QuantizerWithoutProfileFaults : Prop :=
  ∀ s : State, s.plock = false → ∀ i ∈ [Instr.qntFwd 8 8, .qntInv 8 8],
    ∃ t, exec i s = .next t ∧ FaultEntry 3 0 (encode i) s t

/-! ## Numerics (00_scope.md R9, R14). Exact values are scaled by 2^1075. -/

/-- R9: the sum of two finite data is the datum nearest to the exact sum, a tie going to the even one; it is the infinity
of the exact sum's sign exactly where that sum is at or beyond the rounding limit 2^1024 − 2^970; a non-zero sum has the
exact sign, an exact zero the sign minus only from two negative operands. An infinity stays under a finite or equal operand;
∞ − ∞ and an operation on a NaN give a NaN. R9 gives the rounding and the NaNs; the overflow to an infinity, the sign of a
zero and the results on infinities are IEEE 754's, which R9 names without spelling them out (PRESUMED, log 6). -/
def Obligations.SumRoundsOnceToNearestEven : Prop :=
  (∀ a b : F64, isFinite a = true → isFinite b = true →
    (isFinite (fadd a b) = false ↔
      ((2 : Int) ^ 54 - 1) * 2 ^ (970 + 1075) ≤ |scaledReal a + scaledReal b|) ∧
    (isFinite (fadd a b) = false → fadd a b = infinity (decide (scaledReal a + scaledReal b < 0))) ∧
    (scaledReal a + scaledReal b ≠ 0 → (fadd a b).getLsbD 63 = decide (scaledReal a + scaledReal b < 0)) ∧
    (scaledReal a + scaledReal b = 0 → fadd a b = withSign (a.getLsbD 63 && b.getLsbD 63) 0) ∧
    (isFinite (fadd a b) = true → ∀ c : F64, isFinite c = true →
      |scaledReal (fadd a b) - (scaledReal a + scaledReal b)| ≤ |scaledReal c - (scaledReal a + scaledReal b)| ∧
      (|scaledReal (fadd a b) - (scaledReal a + scaledReal b)| = |scaledReal c - (scaledReal a + scaledReal b)| →
        scaledReal c = scaledReal (fadd a b) ∨ (fadd a b).getLsbD 0 = false))) ∧
  (∀ (neg : Bool) (b : F64), isFinite b = true →
    fadd (infinity neg) b = infinity neg ∧ fadd b (infinity neg) = infinity neg) ∧
  (∀ neg : Bool, fadd (infinity neg) (infinity neg) = infinity neg ∧
    isNaN (fadd (infinity neg) (infinity !neg)) = true) ∧
  ∀ a b : F64, isNaN a = true ∨ isNaN b = true → isNaN (fadd a b) = true

/-- R9: the product of two finite data is the datum nearest to the exact product, a tie going to the even one, with the
exclusive or of the signs; it is an infinity exactly where the exact product is at or beyond the rounding limit. An infinity
times a non-zero datum is an infinity of that sign; 0 · ∞ and an operation on a NaN give a NaN. R9 gives the rounding and
the NaNs; the overflow to an infinity, the signs and the results on infinities are IEEE 754's, which R9 names without
spelling them out (PRESUMED, log 6). -/
def Obligations.ProductRoundsOnceToNearestEven : Prop :=
  (∀ a b : F64, isFinite a = true → isFinite b = true →
    (isFinite (fmul a b) = false ↔
      ((2 : Int) ^ 54 - 1) * 2 ^ (970 + 2150) ≤ |scaledReal a * scaledReal b|) ∧
    (isFinite (fmul a b) = false → fmul a b = infinity (a.getLsbD 63 != b.getLsbD 63)) ∧
    (fmul a b).getLsbD 63 = (a.getLsbD 63 != b.getLsbD 63) ∧
    (isFinite (fmul a b) = true → ∀ c : F64, isFinite c = true →
      |scaledReal (fmul a b) * 2 ^ 1075 - scaledReal a * scaledReal b| ≤
        |scaledReal c * 2 ^ 1075 - scaledReal a * scaledReal b| ∧
      (|scaledReal (fmul a b) * 2 ^ 1075 - scaledReal a * scaledReal b| =
          |scaledReal c * 2 ^ 1075 - scaledReal a * scaledReal b| →
        scaledReal c = scaledReal (fmul a b) ∨ (fmul a b).getLsbD 0 = false))) ∧
  (∀ (neg : Bool) (b : F64), isFinite b = true →
    (scaledReal b ≠ 0 → fmul (infinity neg) b = infinity (neg != b.getLsbD 63) ∧
      fmul b (infinity neg) = infinity (b.getLsbD 63 != neg)) ∧
    (scaledReal b = 0 → isNaN (fmul (infinity neg) b) = true ∧ isNaN (fmul b (infinity neg)) = true)) ∧
  (∀ m n : Bool, fmul (infinity m) (infinity n) = infinity (m != n)) ∧
  ∀ a b : F64, isNaN a = true ∨ isNaN b = true → isNaN (fmul a b) = true

/-- R9: the quotient of two finite data, the divisor not zero, is the datum nearest to the exact quotient, a tie going to
the even one, with the exclusive or of the signs; it is an infinity exactly where the exact quotient is at or beyond the
rounding limit. Distances are multiplied by the divisor. A non-zero datum over zero and an infinity over a finite datum are
infinities of that sign, a finite datum over an infinity is a zero of that sign; 0/0, ∞/∞ and an operation on a NaN give a
NaN. R9 gives the rounding and the NaNs; the overflow to an infinity, the signs, the division by zero and the results on
infinities are IEEE 754's, which R9 names without spelling them out (PRESUMED, log 6). -/
def Obligations.QuotientRoundsOnceToNearestEven : Prop :=
  (∀ a b : F64, isFinite a = true → isFinite b = true → scaledReal b ≠ 0 →
    (isFinite (fdiv a b) = false ↔
      ((2 : Int) ^ 54 - 1) * 2 ^ 970 * |scaledReal b| ≤ |scaledReal a|) ∧
    (isFinite (fdiv a b) = false → fdiv a b = infinity (a.getLsbD 63 != b.getLsbD 63)) ∧
    (fdiv a b).getLsbD 63 = (a.getLsbD 63 != b.getLsbD 63) ∧
    (isFinite (fdiv a b) = true → ∀ c : F64, isFinite c = true →
      |scaledReal (fdiv a b) * scaledReal b - scaledReal a * 2 ^ 1075| ≤
        |scaledReal c * scaledReal b - scaledReal a * 2 ^ 1075| ∧
      (|scaledReal (fdiv a b) * scaledReal b - scaledReal a * 2 ^ 1075| =
          |scaledReal c * scaledReal b - scaledReal a * 2 ^ 1075| →
        scaledReal c = scaledReal (fdiv a b) ∨ (fdiv a b).getLsbD 0 = false))) ∧
  (∀ a b : F64, isFinite a = true → isFinite b = true → scaledReal b = 0 →
    (scaledReal a ≠ 0 → fdiv a b = infinity (a.getLsbD 63 != b.getLsbD 63)) ∧
    (scaledReal a = 0 → isNaN (fdiv a b) = true)) ∧
  (∀ (neg : Bool) (b : F64), isFinite b = true →
    fdiv (infinity neg) b = infinity (neg != b.getLsbD 63) ∧
    fdiv b (infinity neg) = withSign (b.getLsbD 63 != neg) 0) ∧
  (∀ m n : Bool, isNaN (fdiv (infinity m) (infinity n)) = true) ∧
  ∀ a b : F64, isNaN a = true ∨ isNaN b = true → isNaN (fdiv a b) = true

/-- R14: `rhaz` is `⌊x + 1/2⌋` for `x ≥ 0` and `−⌊−x + 1/2⌋` for `x < 0`: a nearest integer, a tie going away from zero. -/
def Obligations.RhazRoundsHalfAwayFromZero : Prop :=
  ∀ a : F64, isFinite a = true →
    (0 ≤ scaledReal a → rhaz a = (2 * scaledReal a + 2 ^ 1075) / 2 ^ 1076) ∧
    (scaledReal a < 0 → rhaz a = -((-2 * scaledReal a + 2 ^ 1075) / 2 ^ 1076)) ∧
    2 * |rhaz a * 2 ^ 1075 - scaledReal a| ≤ 2 ^ 1075 ∧
    (2 * |rhaz a * 2 ^ 1075 - scaledReal a| = 2 ^ 1075 → |scaledReal a| < |rhaz a * 2 ^ 1075|)

/-- R9: `ofInt` is exact for |n| ≤ 2^53. -/
def Obligations.OfIntIsExact : Prop :=
  ∀ n : Int, |n| ≤ 2 ^ 53 → isFinite (ofInt n) = true ∧ scaledReal (ofInt n) = n * 2 ^ 1075

/-! ## Read-only tables -/

/-- R102, R103: every entry of `COS` is a binary64 value nearest to `cos(π·(2i+1)·u/16)`, and every entry of `COEF` one
nearest to `c(u)·c(v)`, with `c(0) = 1/√2` and `c(k) = 1` for `k > 0`. -/
def Obligations.BasisTablesAreNearest : Prop :=
  ∀ i u : Nat, i < 8 → u < 8 → ∀ a : F64, isFinite a = true →
    |(scaledReal (cosRom (8 * i + u)) : ℝ) / 2 ^ 1075 - Real.cos (Real.pi * (2 * i + 1) * u / 16)| ≤
      |(scaledReal a : ℝ) / 2 ^ 1075 - Real.cos (Real.pi * (2 * i + 1) * u / 16)| ∧
    |(scaledReal (coefRom (8 * i + u)) : ℝ) / 2 ^ 1075 -
        (if i = 0 then 1 / Real.sqrt 2 else 1) * (if u = 0 then 1 / Real.sqrt 2 else 1)| ≤
      |(scaledReal a : ℝ) / 2 ^ 1075 -
        (if i = 0 then 1 / Real.sqrt 2 else 1) * (if u = 0 then 1 / Real.sqrt 2 else 1)|

/-- R141 to R143: `ZZROM` is what the scan of R141 produces, and a permutation of 0..63. -/
def Obligations.ScanTableIsTheScan : Prop :=
  (List.range 64).map zzRom = zzScan 64 0 0 true ∧ ((List.range 64).map zzRom).Perm (List.range 64)

/-! ## BlockTransform (40_dct.md) -/

/-- R107: `DCT.FWD 8, 8` completes; coefficient `(u, v)` is the scale times the sum of the 64 terms added one by one in the
stated order; where that is a NaN the element is some NaN (R9); nothing else changes but the model's draw counter (log 4). -/
def Obligations.DctFwdComputesTheStatedSums : Prop :=
  ∀ s : State, ∃ t, exec (.dctFwd 8 8) s = .next t ∧ t = { s with f := t.f, draws := t.draws } ∧
    ∀ u v, u < 8 → v < 8 → ∀ acc : Nat → F64, acc 0 = fZero →
      (∀ n, n < 64 → acc (n + 1) =
        fadd (acc n) (fmul (fmul (cosRom (8 * (n / 8) + u)) (cosRom (8 * (n % 8) + v))) (blockAt s.x n))) →
      (isNaN (fmul (fmul fQuarter (coefRom (8 * u + v))) (acc 64)) = false →
        blockAt t.f (8 * u + v) = fmul (fmul fQuarter (coefRom (8 * u + v))) (acc 64)) ∧
      (isNaN (fmul (fmul fQuarter (coefRom (8 * u + v))) (acc 64)) = true →
        isNaN (blockAt t.f (8 * u + v)) = true)

/-- R108: `DCT.INV 8, 8` completes; sample `(i, j)` is a quarter of the sum of the 64 terms added one by one in the stated
order; where that is a NaN the element is some NaN (R9); nothing else changes but the model's draw counter (log 4). -/
def Obligations.DctInvComputesTheStatedSums : Prop :=
  ∀ s : State, ∃ t, exec (.dctInv 8 8) s = .next t ∧ t = { s with x := t.x, draws := t.draws } ∧
    ∀ i j, i < 8 → j < 8 → ∀ acc : Nat → F64, acc 0 = fZero →
      (∀ n, n < 64 → acc (n + 1) =
        fadd (acc n) (fmul (fmul (fmul (coefRom n) (cosRom (8 * i + n / 8))) (cosRom (8 * j + n % 8)))
          (blockAt s.f n))) →
      (isNaN (fmul fQuarter (acc 64)) = false → blockAt t.x (8 * i + j) = fmul fQuarter (acc 64)) ∧
      (isNaN (fmul fQuarter (acc 64)) = true → isNaN (blockAt t.x (8 * i + j)) = true)

/-- R109: a NaN anywhere in the input makes all 64 outputs NaN, and an infinity makes every output an infinity or a NaN,
in both directions; neither raises a fault. -/
def Obligations.NaNInputMakesAllOutputsNaN : Prop :=
  ∀ s : State,
    ((∃ k, k < 64 ∧ isNaN (blockAt s.x k) = true) →
      ∃ t, exec (.dctFwd 8 8) s = .next t ∧ t.faulted = s.faulted ∧ ∀ k, k < 64 → isNaN (blockAt t.f k) = true) ∧
    ((∃ k, k < 64 ∧ isNaN (blockAt s.f k) = true) →
      ∃ t, exec (.dctInv 8 8) s = .next t ∧ t.faulted = s.faulted ∧ ∀ k, k < 64 → isNaN (blockAt t.x k) = true) ∧
    ((∃ k, k < 64 ∧ isFinite (blockAt s.x k) = false) →
      ∃ t, exec (.dctFwd 8 8) s = .next t ∧ t.faulted = s.faulted ∧ ∀ k, k < 64 → isFinite (blockAt t.f k) = false) ∧
    ((∃ k, k < 64 ∧ isFinite (blockAt s.f k) = false) →
      ∃ t, exec (.dctInv 8 8) s = .next t ∧ t.faulted = s.faulted ∧ ∀ k, k < 64 → isFinite (blockAt t.x k) = false)

/-- R107, corner case: a uniform block of integer value `a` with |a| ≤ 2^46 gives `F[0] = 8·a` exactly. -/
def Obligations.UniformBlockHasExactDc : Prop :=
  ∀ (s : State) (a : Int), |a| ≤ 2 ^ 46 → (∀ k, k < 64 → blockAt s.x k = ofInt a) →
    ∃ t, exec (.dctFwd 8 8) s = .next t ∧ blockAt t.f 0 = ofInt (8 * a)

/-- R108, corner case: `F` with only `F[0] = d` non-zero gives every sample the value `d/8` exactly, for any `d` whose
eighth is representable. -/
def Obligations.DcOnlyBlockInvertsToItsEighth : Prop :=
  ∀ s : State, isFinite (blockAt s.f 0) = true →
    (∃ e : F64, isFinite e = true ∧ 8 * scaledReal e = scaledReal (blockAt s.f 0)) →
    (∀ k, 1 ≤ k → k < 64 → blockAt s.f k = fZero) →
    ∃ t, exec (.dctInv 8 8) s = .next t ∧
      ∀ k, k < 64 → isFinite (blockAt t.x k) = true ∧ 8 * scaledReal (blockAt t.x k) = scaledReal (blockAt s.f 0)

/-- R110: for samples that are integers in 0..255, the forward and then the inverse transform leave every sample within
10^-3. -/
def Obligations.TransformRoundTripIsWithinTolerance : Prop :=
  ∀ s : State, (∀ k, k < 64 → ∃ n : Nat, n ≤ 255 ∧ blockAt s.x k = ofInt n) →
    ∃ t u, exec (.dctFwd 8 8) s = .next t ∧ exec (.dctInv 8 8) t = .next u ∧
      ∀ k, k < 64 → isFinite (blockAt u.x k) = true ∧
        1000 * |scaledReal (blockAt u.x k) - scaledReal (blockAt s.x k)| < 2 ^ 1075

/-! ## Quantizer (41_quant.md) -/

/-- R125: with a profile chosen and every quotient finite and in range, `QNT.FWD 8, 8` completes, `Z[k]` is `rhaz` of the
rounded quotient, and nothing else changes. -/
def Obligations.QntFwdQuantizesInRange : Prop :=
  ∀ s : State, s.plock = true →
    (∀ k, k < 64 → isFinite (fdiv (blockAt s.f k) (ofInt (s.profileEntry k))) = true ∧
      -32768 ≤ rhaz (fdiv (blockAt s.f k) (ofInt (s.profileEntry k))) ∧
      rhaz (fdiv (blockAt s.f k) (ofInt (s.profileEntry k))) ≤ 32767) →
    ∃ t, exec (.qntFwd 8 8) s = .next t ∧ t = { s with z := t.z } ∧
      ∀ k, k < 64 → (blockAt t.z k).toInt = rhaz (fdiv (blockAt s.f k) (ofInt (s.profileEntry k)))

/-- R266: `QNT.FWD` takes `CoefRange` at the lowest index whose quotient is an infinity or a NaN or rounds outside 16 bits. -/
def Obligations.QntFwdFaultsAtLowestBadCoefficient : Prop :=
  ∀ (s : State) (k : Nat), s.plock = true → k < 64 →
    (∀ j, j < k → isFinite (fdiv (blockAt s.f j) (ofInt (s.profileEntry j))) = true ∧
      -32768 ≤ rhaz (fdiv (blockAt s.f j) (ofInt (s.profileEntry j))) ∧
      rhaz (fdiv (blockAt s.f j) (ofInt (s.profileEntry j))) ≤ 32767) →
    (isFinite (fdiv (blockAt s.f k) (ofInt (s.profileEntry k))) = false ∨
      rhaz (fdiv (blockAt s.f k) (ofInt (s.profileEntry k))) < -32768 ∨
      32767 < rhaz (fdiv (blockAt s.f k) (ofInt (s.profileEntry k)))) →
    ∃ t, exec (.qntFwd 8 8) s = .next t ∧ FaultEntry 5 k 0x20880000 s t

/-- R126: with a profile chosen, `QNT.INV 8, 8` completes, `F[k]` is the exact product of `Z[k]` and the profile entry,
`+0.0` for 0, and nothing else changes. -/
def Obligations.QntInvMultipliesExactly : Prop :=
  ∀ s : State, s.plock = true →
    ∃ t, exec (.qntInv 8 8) s = .next t ∧ t = { s with f := t.f } ∧
      ∀ k, k < 64 → isFinite (blockAt t.f k) = true ∧
        scaledReal (blockAt t.f k) =
          (blockAt s.z k).toInt * ((qRom s.params (64 * s.prof.toNat + k)).toNat : Int) * 2 ^ 1075 ∧
        (blockAt s.z k = 0 → blockAt t.f k = fZero)

/-- R127: after `QNT.FWD` and `QNT.INV` a coefficient differs from its old value by at most half the profile entry and the
error of the division times the entry; with entry 1 by at most 1/2. -/
def Obligations.QuantizeDequantizeErrorIsBounded : Prop :=
  ∀ s t u : State, s.faulted = false →
    exec (.qntFwd 8 8) s = .next t → t.faulted = false → exec (.qntInv 8 8) t = .next u →
    ∀ k, k < 64 →
      2 * |scaledReal (blockAt u.f k) - scaledReal (blockAt s.f k)| ≤
        (s.profileEntry k : Int) * 2 ^ 1075 +
          2 * |scaledReal (fdiv (blockAt s.f k) (ofInt (s.profileEntry k))) * (s.profileEntry k : Int) -
            scaledReal (blockAt s.f k)| ∧
      (s.profileEntry k = 1 →
        2 * |scaledReal (blockAt u.f k) - scaledReal (blockAt s.f k)| ≤ 2 ^ 1075)

/-! ## ZigZag (42_zigzag.md) -/

/-- R144: with 64 free symbols, `ZZ.SER 8, 8` appends the block in scan order, every other symbol of `S` stays, and nothing
else changes. -/
def Obligations.ZzSerAppendsTheBlock : Prop :=
  ∀ s : State, s.params.smax ≤ 2 ^ 22 → s.slen.toNat + 64 ≤ s.params.smax →
    ∃ t, exec (.zzSer 8 8) s = .next t ∧ t = { s with sBuf := t.sBuf, slen := t.slen } ∧
      t.slen.toNat = s.slen.toNat + 64 ∧
      (∀ k, k < 64 → t.symbolAt (s.slen.toNat + k) = blockAt s.z (zzRom k)) ∧
      ∀ j, j < s.slen.toNat ∨ s.slen.toNat + 64 ≤ j → t.symbolAt j = s.symbolAt j

/-- R145: with the slice inside the valid sequence, `ZZ.DES 64, blk` rebuilds the block, and nothing else changes. -/
def Obligations.ZzDesRebuildsTheBlock : Prop :=
  ∀ (s : State) (blk : Nat), 64 * blk + 64 ≤ s.slen.toNat →
    ∃ t, exec (.zzDes 64 blk) s = .next t ∧ t = { s with z := t.z } ∧
      ∀ k, k < 64 → blockAt t.z (zzRom k) = s.symbolAt (64 * blk + k)

/-- R144, R145, R265: `ZZ.SER` without 64 free symbols and `ZZ.DES` of a slice outside the valid sequence take
`SeqBounds`. -/
def Obligations.ZigZagOutOfBoundsTakesSeqBounds : Prop :=
  ∀ s : State,
    (s.params.smax < s.slen.toNat + 64 →
      ∃ t, exec (.zzSer 8 8) s = .next t ∧ FaultEntry 4 s.slen.toNat 0x30880000 s t) ∧
    (∀ blk, blk < 65536 → s.slen.toNat < 64 * blk + 64 →
      ∃ t, exec (.zzDes 64 blk) s = .next t ∧
        FaultEntry 4 (64 * blk) (BitVec.ofNat 32 (0x31400000 + blk)) s t)

/-- R146: serializing and deserializing leaves the block as it was; deserializing and serializing appends a copy of the
slice. -/
def Obligations.ZigZagRoundTrip : Prop :=
  ∀ (s : State) (b : Nat), s.params.smax ≤ 2 ^ 22 → s.slen.toNat + 64 ≤ s.params.smax →
    (s.slen.toNat = 64 * b →
      ∃ t u, exec (.zzSer 8 8) s = .next t ∧ exec (.zzDes 64 b) t = .next u ∧
        u.z = s.z ∧ u.faulted = s.faulted) ∧
    (64 * b + 64 ≤ s.slen.toNat →
      ∃ t u, exec (.zzDes 64 b) s = .next t ∧ exec (.zzSer 8 8) t = .next u ∧ u.faulted = s.faulted ∧
        u.slen.toNat = s.slen.toNat + 64 ∧
        ∀ k, k < 64 → u.symbolAt (s.slen.toNat + k) = s.symbolAt (64 * b + k))

/-! ## Run-length coder (43_rle.md) -/

/-- R161, R163: `RLE.ENC` completes in every state; `P` holds the count and the sign-extended value of each of the maximal
runs of the symbol sequence, which are unique; words of `P` above stay, and nothing else changes. -/
def Obligations.RleEncWritesTheMaximalRuns : Prop :=
  decode 0x40000000 = .ok .rleEnc ∧ ∀ s : State, ∃ (pairs : List Run) (t : State), MaximalRuns pairs s.symbols ∧
    (∀ others, MaximalRuns others s.symbols → others = pairs) ∧
    exec .rleEnc s = .next t ∧ t = { s with pBuf := t.pBuf, plen := t.plen, flagE := t.flagE } ∧
    t.plen.toNat = 2 * pairs.length ∧ t.flagE = decide (s.slen.toNat = 0) ∧
    (∀ (k : Nat) (h : k < pairs.length), (t.pairWordAt (2 * k)).toNat = pairs[k].1 ∧
      t.pairWordAt (2 * k + 1) = pairs[k].2.signExtend 32) ∧
    ∀ j, 2 * pairs.length ≤ j → t.pairWordAt j = s.pairWordAt j

/-- R162, R166: on a well-formed pair list whose counts add up to at most `SMAX`, `RLE.DEC` completes and replaces the
symbol sequence by the expansion; symbols of `S` above stay, and nothing else changes. -/
def Obligations.RleDecExpandsThePairs : Prop :=
  ∀ s : State, s.params.smax ≤ 2 ^ 22 → WellFormedPairs s.pairWords →
    totalOfPairs s.pairWords (s.pairWords.length / 2) ≤ s.params.smax →
    ∃ t, exec .rleDec s = .next t ∧ t = { s with sBuf := t.sBuf, slen := t.slen, flagE := t.flagE } ∧
      t.slen.toNat = totalOfPairs s.pairWords (s.pairWords.length / 2) ∧
      t.flagE = decide (s.plen.toNat = 0) ∧
      t.symbols = (pairsOfWords s.pairWords).flatMap (fun p => List.replicate p.1 p.2) ∧
      ∀ j, t.slen.toNat ≤ j → t.symbolAt j = s.symbolAt j

/-- R164, R166, R267, R265: the fault of a pair list is the first one that the scan meets, with its `ERRINFO`; in `RLE.DEC`
the running total is part of the same scan. -/
def Obligations.PairScanReportsTheFirstFailure : Prop :=
  ∀ s : State,
    (s.pairWords.length % 2 = 1 → ∀ i ∈ [Instr.rleDec, .hufBuild],
      ∃ t, exec i s = .next t ∧ FaultEntry 6 (s.pairWords.length - 1) (encode i) s t) ∧
    (∀ k, s.pairWords.length % 2 = 0 → 2 * k + 1 < s.pairWords.length →
      (∀ j, j < k → GoodPair s.pairWords j) → ¬ GoodPair s.pairWords k →
      ∃ t, exec .hufBuild s = .next t ∧
        FaultEntry 6 (if s.pairWords.getD (2 * k) 0 = 0 then 2 * k else 2 * k + 1) 0x50000000 s t) ∧
    (∀ k, s.pairWords.length % 2 = 0 → 2 * k + 1 < s.pairWords.length →
      (∀ j, j < k → GoodPair s.pairWords j) → totalOfPairs s.pairWords k ≤ s.params.smax →
      (¬ GoodPair s.pairWords k →
        ∃ t, exec .rleDec s = .next t ∧
          FaultEntry 6 (if s.pairWords.getD (2 * k) 0 = 0 then 2 * k else 2 * k + 1) 0x41000000 s t) ∧
      (GoodPair s.pairWords k → s.params.smax < totalOfPairs s.pairWords (k + 1) →
        ∃ t, exec .rleDec s = .next t ∧ FaultEntry 4 (2 * k) 0x41000000 s t))

/-- R167: `RLE.ENC` and then `RLE.DEC` leave the symbol sequence and `SLEN` as they were, the empty sequence included. -/
def Obligations.RleRoundTrip : Prop :=
  ∀ s : State, s.params.smax ≤ 2 ^ 22 → s.slen.toNat ≤ s.params.smax →
    ∃ t u, exec .rleEnc s = .next t ∧ exec .rleDec t = .next u ∧
      u.slen = s.slen ∧ u.symbols = s.symbols ∧ u.faulted = s.faulted ∧ u.flagE = decide (s.slen.toNat = 0)

/-- R168: the counts of the run-length code of a sequence add up to its length, and those with value `v` to the number of
times `v` occurs. -/
def Obligations.RunCountsAreOccurrenceCounts : Prop :=
  ∀ (l : List Symbol) (v : Symbol),
    ((rleEncode l).map Prod.fst).sum = l.length ∧ symbolWeight (rleEncode l) v = l.count v

/-! ## Huffman coder (44_huffman.md) -/

/-- R183, R190, R194: on a well-formed pair list whose codes fit `CLMAX`, `HUF.BUILD` completes: `FREQ[v]` is the sum of the
counts with value `v`, `NSYM` the number of symbols with a weight, `CODE[v]` the entry of the tree's code, empty exactly
for a symbol without weight, and `(1, 0)` for an only symbol; `P` and everything else stay. -/
def Obligations.HufBuildWritesWeightsAndCodes : Prop :=
  ∀ s : State, WellFormedPairs s.pairWords →
    (∀ v : Symbol, (codeString (pairCodes (pairsOfWords s.pairWords)) v).length ≤ 32) →
    ∃ t, exec .hufBuild s = .next t ∧
      t = { s with freq := t.freq, nsym := t.nsym, code := t.code, flagE := t.flagE, flagS1 := t.flagS1 } ∧
      (∀ v : Symbol, (t.weightOf v).toNat =
        (((pairsOfWords s.pairWords).filter fun p => p.2 = v).map Prod.fst).sum) ∧
      t.nsym.toNat = ((Finset.range 65536).filter fun i => t.freq.read 0 i ≠ 0).card ∧
      (∀ v : Symbol, t.codeEntryOf v = codeEntry (codeString (pairCodes (pairsOfWords s.pairWords)) v) ∧
        ((t.codeEntryOf v).len = 0 ↔ t.weightOf v = 0)) ∧
      t.flagE = decide (s.plen.toNat = 0) ∧ t.flagS1 = decide (t.nsym.toNat = 1) ∧
      (t.nsym.toNat = 1 → ∀ v : Symbol, t.weightOf v ≠ 0 → t.codeEntryOf v = ⟨1, 0⟩)

/-- R186 to R188: a pop takes the lowest live node and leaves the others. A turn with at least two live nodes pops the
lowest, which becomes the left child, then the lowest of the rest, which becomes the right child; the new node has the sum
of their frequencies and the next creation number, and the other nodes stay. The tree of `K` symbols is what `K − 1` such
turns make of their leaves, numbered from 0 in the order of the symbols, with the creation numbers from `K` on; no symbol
has no tree. The symbols of a pair list are its distinct values in ascending signed order. In the tree the left child of
every internal node is lower than the right and the frequency is the sum of theirs. -/
def Obligations.TreeMergesTheLowestNodes : Prop :=
  (∀ (a : HufTree) (rest : List HufTree),
    ((popLowest a rest).1 :: (popLowest a rest).2).Perm (a :: rest) ∧
    ∀ n ∈ (popLowest a rest).2, n.lower (popLowest a rest).1 = false) ∧
  (∀ (next : Nat) (a b : HufTree) (rest : List HufTree), ∃ (c : HufTree) (others : List HufTree),
    (popLowest a (b :: rest)).2 = c :: others ∧
    mergeLowest next a (b :: rest) =
      (.node ((popLowest a (b :: rest)).1.freq + (popLowest c others).1.freq) next
        (popLowest a (b :: rest)).1 (popLowest c others).1, (popLowest c others).2)) ∧
  (∀ w : Symbol → Nat, hufTree w [] = none) ∧
  (∀ (w : Symbol → Nat) (v : Symbol) (syms : List Symbol), ∃ live : Nat → HufTree × List HufTree,
    (live 0).1 :: (live 0).2 = (v :: syms).zipIdx.map (fun c => HufTree.leaf c.1 (w c.1) c.2) ∧
    (∀ n, n < syms.length →
      live (n + 1) = mergeLowest (syms.length + 1 + n) (live n).1 (live n).2) ∧
    (live syms.length).2 = [] ∧ hufTree w (v :: syms) = some (live syms.length).1) ∧
  (∀ pairs : List Run, (distinctSymbols pairs).Pairwise (fun u v => u.toInt < v.toInt) ∧
    ∀ v : Symbol, v ∈ distinctSymbols pairs ↔ ∃ p ∈ pairs, p.2 = v) ∧
  ∀ (w : Symbol → Nat) (syms : List Symbol) (root : HufTree), hufTree w syms = some root → root.Ordered

/-- R189, R196: the codes of a tree with an internal node are the paths to its leaves, a left edge 0 and a right edge 1.
The codes of a pair list are those of the tree of its weights, one for each of its distinct symbols; no code is a prefix of
another; with two or more symbols they are complete. -/
def Obligations.HuffmanCodesArePrefixFreeAndComplete : Prop :=
  (∀ (w o : Nat) (l r : HufTree) (v : Symbol) (path : List Bool),
    (v, path) ∈ hufCodes (some (.node w o l r)) ↔ (HufTree.node w o l r).LeafAt v path) ∧
  ∀ pairs : List Run,
    pairCodes pairs = hufCodes (hufTree (symbolWeight pairs) (distinctSymbols pairs)) ∧
    ((pairCodes pairs).map Prod.fst).Perm (distinctSymbols pairs) ∧
    (pairCodes pairs).Pairwise (fun c d => ¬ c.2 <+: d.2 ∧ ¬ d.2 <+: c.2) ∧
    (2 ≤ (distinctSymbols pairs).length →
      ((pairCodes pairs).map fun c => (1 / 2 : ℚ) ^ c.2.length).sum = 1)

/-- R193, R269: `HUF.BUILD` takes `CodeTooLong` for the lowest symbol, in signed order, whose code is longer than `CLMAX`
bits, with `ERRINFO` its 16-bit pattern. -/
def Obligations.HufBuildFaultsOnTooLongCode : Prop :=
  ∀ (s : State) (v : Symbol), WellFormedPairs s.pairWords →
    32 < (codeString (pairCodes (pairsOfWords s.pairWords)) v).length →
    (∀ u : Symbol, u.toInt < v.toInt → (codeString (pairCodes (pairsOfWords s.pairWords)) u).length ≤ 32) →
    ∃ t, exec .hufBuild s = .next t ∧ FaultEntry 8 v.toNat 0x50000000 s t

/-- R198 to R200: when every symbol of the sequence has a code, `HUF.PACK` completes: the bits of the concatenated code
strings fill the bytes most significant bit first, the rest of the last byte is 0, bytes of `BS` above stay, and nothing
else changes. -/
def Obligations.HufPackPacksTheCodeBits : Prop :=
  ∀ s : State, (∀ v ∈ s.symbols, (s.codeEntryOf v).len ≠ 0) →
    ∃ t, exec .hufPack s = .next t ∧
      t = { s with bs := t.bs, bitLen := t.bitLen, bsLen := t.bsLen, flagE := t.flagE, flagPB := t.flagPB } ∧
      t.bitLen.toNat = (s.symbols.flatMap fun v => (s.codeEntryOf v).string).length ∧
      t.bsLen.toNat = (t.bitLen.toNat + 7) / 8 ∧
      (∀ m, m < 8 * t.bsLen.toNat → (t.byteAt (m / 8)).getLsbD (7 - m % 8) =
        (s.symbols.flatMap fun v => (s.codeEntryOf v).string).getD m false) ∧
      (∀ q, t.bsLen.toNat ≤ q → t.byteAt q = s.byteAt q) ∧
      t.flagE = decide (s.slen.toNat = 0) ∧ t.flagPB = decide (t.bitLen.toNat % 8 ≠ 0)

/-- R201, R268: `HUF.PACK` takes `MissingCode` at the lowest index whose symbol has the empty code. -/
def Obligations.HufPackFaultsAtFirstMissingCode : Prop :=
  ∀ (s : State) (i : Nat), i < s.slen.toNat → (∀ j, j < i → (s.codeEntryOf (s.symbolAt j)).len ≠ 0) →
    (s.codeEntryOf (s.symbolAt i)).len = 0 →
    ∃ t, exec .hufPack s = .next t ∧ FaultEntry 7 i 0x51000000 s t

/-- R207, first sentence: from a state whose `CODE` came from a successful `HUF.BUILD`, the reference decoder inverts a
`HUF.PACK` that completes without a fault. -/
def Obligations.DecoderInvertsThePacker : Prop :=
  ∀ s t v u : State, s.faulted = false → exec .hufBuild s = .next t → t.faulted = false →
    v.code = t.code → v.faulted = false → exec .hufPack v = .next u → u.faulted = false →
    hufDecode u.bs u.bitLen.toNat u.code = some v.symbols

/-- R207, R234: on any sequence of at most 2^22 symbols, from an unfaulted state, `RLE.ENC`, `HUF.BUILD`, `HUF.PACK` do not
fault and the reference decoder returns the sequence. -/
def Obligations.HufEncodeNeverFaultsAndDecodes : Prop :=
  ∀ s : State, s.faulted = false → s.slen.toNat ≤ 2 ^ 22 →
    ∃ t u v, exec .rleEnc s = .next t ∧ exec .hufBuild t = .next u ∧ exec .hufPack u = .next v ∧
      v.faulted = false ∧ hufDecode v.bs v.bitLen.toNat v.code = some s.symbols
end

