-- ==== Sys2Proof/Laws/Memory.lean ====
section
/-! SUPPORT. The laws of the sparse buffers: what a read gives after a write, that every write keeps the canonical form and
the capacity, and what a slice holds. -/

namespace Sys2Proof.Machine

variable {α : Type}

@[simp] theorem Memory.read_nil (d : α) (i : Nat) : Memory.read d ([] : Memory α) i = d := rfl

theorem Memory.read_cons (d : α) (c : Nat × α) (m : Memory α) (i : Nat) :
    Memory.read d (c :: m) i = if c.1 = i then c.2 else Memory.read d m i := by
  by_cases h : c.1 = i <;> simp [Memory.read, h]

/-- A read where no index is listed gives the default. -/
theorem Memory.read_eq_default (d : α) (m : Memory α) (i : Nat) (h : ∀ c ∈ m, c.1 ≠ i) : Memory.read d m i = d := by
  induction m with
  | nil => rfl
  | cons c m ih =>
    rw [Memory.read_cons, if_neg (h c (by simp)), ih fun e he => h e (by simp [he])]

/-- A read of a concatenation whose first part lists the index. -/
theorem Memory.read_append_left (d : α) (m n : Memory α) (i : Nat) (h : ∃ c ∈ m, c.1 = i) :
    Memory.read d (m ++ n) i = Memory.read d m i := by
  induction m with
  | nil => simp at h
  | cons c m ih =>
    rw [List.cons_append, Memory.read_cons, Memory.read_cons]
    by_cases hc : c.1 = i
    · simp [hc]
    · rw [if_neg hc, if_neg hc, ih]
      obtain ⟨e, he, hei⟩ := h
      rcases List.mem_cons.mp he with rfl | he
      · exact absurd hei hc
      · exact ⟨e, he, hei⟩

/-- A read of a concatenation whose first part does not list the index. -/
theorem Memory.read_append_right (d : α) (m n : Memory α) (i : Nat) (h : ∀ c ∈ m, c.1 ≠ i) :
    Memory.read d (m ++ n) i = Memory.read d n i := by
  induction m with
  | nil => rfl
  | cons c m ih =>
    rw [List.cons_append, Memory.read_cons, if_neg (h c (by simp)), ih fun e he => h e (by simp [he])]

/-- Dropping indices that do not satisfy `p` does not change what is read where `p` holds. -/
theorem Memory.read_filter (d : α) (p : Nat → Bool) (m : Memory α) (i : Nat) (h : p i = true) :
    Memory.read d (m.filter fun c => p c.1) i = Memory.read d m i := by
  induction m with
  | nil => rfl
  | cons c m ih =>
    by_cases hc : c.1 = i
    · simp [Memory.read_cons, hc, h]
    · by_cases hp : p c.1 = true <;> simp [Memory.read_cons, hp, hc, ih]

section Write

variable [DecidableEq α]

theorem Memory.cells_cons (d : α) (a : Nat) (v : α) (vals : List α) :
    Memory.cells d a (v :: vals) = (if v = d then [] else [(a, v)]) ++ Memory.cells d (a + 1) vals := by
  by_cases h : v = d <;> simp [Memory.cells, h]

/-- The cells of values laid from `a` on are listed from `a` on, below the end, and differ from the default. -/
theorem Memory.mem_cells (d : α) (a : Nat) (vals : List α) {c : Nat × α} (h : c ∈ Memory.cells d a vals) :
    a ≤ c.1 ∧ c.1 < a + vals.length ∧ c.2 ≠ d := by
  induction vals generalizing a with
  | nil => simp [Memory.cells] at h
  | cons v vals ih =>
    rw [Memory.cells_cons, List.mem_append] at h
    rcases h with h | h
    · by_cases hv : v = d
      · simp [hv] at h
      · simp only [hv, if_false, List.mem_singleton] at h
        subst h
        exact ⟨le_refl _, by simp, hv⟩
    · obtain ⟨h1, h2, h3⟩ := ih (a + 1) h
      exact ⟨by omega, by simp only [List.length_cons]; omega, h3⟩

/-- Reading the cells of a list of values. -/
theorem Memory.read_cells (d : α) (a : Nat) (vals : List α) (i : Nat) :
    Memory.read d (Memory.cells d a vals) i = if a ≤ i then vals.getD (i - a) d else d := by
  induction vals generalizing a with
  | nil => simp [Memory.cells]
  | cons v vals ih =>
    rw [Memory.cells_cons]
    by_cases hai : a = i
    · subst hai
      by_cases hv : v = d
      · simp [hv, ih]
      · simp [hv, Memory.read_cons]
    · rw [Memory.read_append_right, ih]
      · by_cases h1 : a + 1 ≤ i
        · rw [if_pos h1, if_pos (by omega), show i - a = (i - (a + 1)) + 1 by omega, List.getD_cons_succ]
        · rw [if_neg h1, if_neg (by omega)]
      · by_cases hv : v = d <;> simp [hv, hai]

/-- What a read gives after a list of values has been written: the value where one was written, the old element
everywhere else. -/
theorem Memory.read_writeList (d : α) (m : Memory α) (a : Nat) (vals : List α) (i : Nat) :
    Memory.read d (Memory.writeList d m a vals) i =
      if a ≤ i ∧ i < a + vals.length then vals.getD (i - a) d else Memory.read d m i := by
  have hlow : ∀ c ∈ m.filter (fun c => c.1 < a), c.1 < a := fun c hc => by simpa using (List.mem_filter.mp hc).2
  have hhigh : ∀ c ∈ m.filter (fun c => a + vals.length ≤ c.1), a + vals.length ≤ c.1 := fun c hc => by
    simpa using (List.mem_filter.mp hc).2
  have hcells : ∀ c ∈ Memory.cells d a vals, a ≤ c.1 ∧ c.1 < a + vals.length := fun c hc =>
    ⟨(Memory.mem_cells d a vals hc).1, (Memory.mem_cells d a vals hc).2.1⟩
  unfold Memory.writeList
  rw [List.append_assoc]
  by_cases h1 : i < a
  · rw [if_neg (by omega)]
    have hrest : Memory.read d (Memory.cells d a vals ++ m.filter (fun c => a + vals.length ≤ c.1)) i = d := by
      apply Memory.read_eq_default
      intro c hc hci
      rcases List.mem_append.mp hc with h | h
      · have := hcells c h
        omega
      · have := hhigh c h
        omega
    have hkeep := Memory.read_filter d (fun j => decide (j < a)) m i (by simpa using h1)
    by_cases hin : ∃ c ∈ m.filter (fun c => c.1 < a), c.1 = i
    · rw [Memory.read_append_left d _ _ i hin, hkeep]
    · push Not at hin
      rw [Memory.read_append_right d _ _ i hin, hrest, ← hkeep, Memory.read_eq_default d _ i hin]
  · rw [Memory.read_append_right d _ _ i fun c hc => by have := hlow c hc; omega]
    by_cases h2 : i < a + vals.length
    · rw [if_pos ⟨by omega, h2⟩]
      have hread := Memory.read_cells d a vals i
      rw [if_pos (by omega)] at hread
      by_cases hin : ∃ c ∈ Memory.cells d a vals, c.1 = i
      · rw [Memory.read_append_left d _ _ i hin, hread]
      · push Not at hin
        rw [Memory.read_append_right d _ _ i hin, ← hread, Memory.read_eq_default d _ i hin]
        exact Memory.read_eq_default d _ i fun c hc => by have := hhigh c hc; omega
    · rw [if_neg (by omega), Memory.read_append_right d _ _ i fun c hc => by have := hcells c hc; omega]
      exact Memory.read_filter d (fun j => decide (a + vals.length ≤ j)) m i (by simp; omega)

/-- What a read gives after one element has been written. -/
theorem Memory.read_write (d : α) (m : Memory α) (i j : Nat) (v : α) :
    Memory.read d (Memory.write d m i v) j = if j = i then v else Memory.read d m j := by
  unfold Memory.write
  rw [Memory.read_writeList]
  by_cases h : j = i
  · simp [h]
  · rw [if_neg h, if_neg]
    simp only [List.length_singleton]
    omega

theorem Memory.cells_rising (d : α) (a : Nat) (vals : List α) :
    ((Memory.cells d a vals).map Prod.fst).Pairwise (· < ·) := by
  induction vals generalizing a with
  | nil => simp [Memory.cells]
  | cons v vals ih =>
    rw [Memory.cells_cons, List.map_append, List.pairwise_append]
    refine ⟨by by_cases hv : v = d <;> simp [hv], ih (a + 1), ?_⟩
    intro p hp q hq
    obtain ⟨c, hc, rfl⟩ := List.mem_map.mp hq
    have hpa : p = a := by
      by_cases hv : v = d
      · simp [hv] at hp
      · simpa [hv] using hp
    have := (Memory.mem_cells d (a + 1) vals hc).1
    omega

/-- A write keeps the canonical form. -/
theorem Memory.wf_writeList (d : α) (m : Memory α) (a : Nat) (vals : List α) (h : Memory.wf d m) :
    Memory.wf d (Memory.writeList d m a vals) := by
  obtain ⟨hrise, hval⟩ := h
  have hsub : ∀ p : Nat × α → Bool, ((m.filter p).map Prod.fst).Pairwise (· < ·) := fun p =>
    hrise.sublist (List.filter_sublist.map Prod.fst)
  constructor
  · unfold Memory.writeList
    rw [List.map_append, List.map_append, List.append_assoc, List.pairwise_append]
    refine ⟨hsub _, ?_, ?_⟩
    · rw [List.pairwise_append]
      refine ⟨Memory.cells_rising d a vals, hsub _, ?_⟩
      intro p hp q hq
      obtain ⟨c, hc, rfl⟩ := List.mem_map.mp hp
      obtain ⟨e, he, rfl⟩ := List.mem_map.mp hq
      have h1 := (Memory.mem_cells d a vals hc).2.1
      have h2 := (List.mem_filter.mp he).2
      simp only [decide_eq_true_eq] at h2
      omega
    · intro p hp q hq
      obtain ⟨c, hc, rfl⟩ := List.mem_map.mp hp
      have h1 := (List.mem_filter.mp hc).2
      simp only [decide_eq_true_eq] at h1
      rcases List.mem_append.mp hq with hq | hq
      · obtain ⟨e, he, rfl⟩ := List.mem_map.mp hq
        have := (Memory.mem_cells d a vals he).1
        omega
      · obtain ⟨e, he, rfl⟩ := List.mem_map.mp hq
        have h2 := (List.mem_filter.mp he).2
        simp only [decide_eq_true_eq] at h2
        omega
  · intro c hc
    unfold Memory.writeList at hc
    rcases List.mem_append.mp hc with hc | hc
    · rcases List.mem_append.mp hc with hc | hc
      · exact hval c (List.mem_filter.mp hc).1
      · exact (Memory.mem_cells d a vals hc).2.2
    · exact hval c (List.mem_filter.mp hc).1

theorem Memory.wf_write (d : α) (m : Memory α) (i : Nat) (v : α) (h : Memory.wf d m) :
    Memory.wf d (Memory.write d m i v) := Memory.wf_writeList d m i [v] h

/-- A write below the capacity keeps every listed index below it. -/
theorem Memory.below_writeList (d : α) (m : Memory α) (a : Nat) (vals : List α) (n : Nat)
    (h : Memory.below n m) (hn : a + vals.length ≤ n) : Memory.below n (Memory.writeList d m a vals) := by
  intro c hc
  unfold Memory.writeList at hc
  rcases List.mem_append.mp hc with hc | hc
  · rcases List.mem_append.mp hc with hc | hc
    · exact h c (List.mem_filter.mp hc).1
    · have := (Memory.mem_cells d a vals hc).2.1
      omega
  · exact h c (List.mem_filter.mp hc).1

end Write

@[simp] theorem Memory.length_slice (d : α) (m : Memory α) (a n : Nat) : (Memory.slice d m a n).length = n := by
  simp [Memory.slice]

/-- Element `k` of a slice. -/
theorem Memory.getElem_slice (d : α) (m : Memory α) (a n k : Nat) (h : k < (Memory.slice d m a n).length) :
    (Memory.slice d m a n)[k] = Memory.read d m (a + k) := by
  simp [Memory.slice]

end Sys2Proof.Machine
end

