-- ==== Sys2Proof/Laws/Blocks.lean ====
section
/-! SUPPORT. The elements of the block buffers after the operations that write them, and of the sequences read from the
stream buffers. -/

namespace Sys2Proof.Machine

variable {α : Type} [Inhabited α]

theorem blockAt_eq (b : Block α) {k : Nat} (h : k < 64) : blockAt b k = b[k] := by
  simp [blockAt, Vector.getD, h]

/-- Element `k` of a block given element by element. -/
theorem blockAt_ofFn (g : Fin 64 → α) {k : Nat} (h : k < 64) : blockAt (Vector.ofFn g) k = g ⟨k, h⟩ := by
  rw [blockAt_eq _ h, Vector.getElem_ofFn]

/-- A block is its 64 elements. -/
theorem block_ext {a b : Block α} (h : ∀ k, k < 64 → blockAt a k = blockAt b k) : a = b := by
  apply Vector.ext
  intro k hk
  rw [← blockAt_eq a hk, ← blockAt_eq b hk, h k hk]

/-- The elements after one has been replaced. -/
theorem blockAt_set (b : Block α) (i : Nat) (v : α) {k : Nat} (h : k < 64) :
    blockAt (b.setIfInBounds i v) k = if i = k then v else blockAt b k := by
  rw [blockAt_eq _ h, blockAt_eq _ h, Vector.getElem_setIfInBounds]

@[simp] theorem blockAt_replicate (v : α) {k : Nat} (h : k < 64) : blockAt (Vector.replicate 64 v) k = v := by
  rw [blockAt_eq _ h, Vector.getElem_replicate]

/-- A stored result: the computed datum, with a free NaN in place of a NaN. -/
theorem blockAt_settleBlock (draws : Nat) (result : Nat → Nat → F64) {k : Nat} (h : k < 64) :
    blockAt (settleBlock draws result) k =
      settleNaN (Config.freeNaN (draws + k)) (result (k / 8) (k % 8)) := blockAt_ofFn _ h

@[simp] theorem length_serialize (z : Block Symbol) : (serialize z).length = 64 := by simp [serialize]

@[simp] theorem length_symbols (s : State) : s.symbols.length = s.slen.toNat := by simp [State.symbols]

@[simp] theorem length_pairWords (s : State) : s.pairWords.length = s.plen.toNat := by simp [State.pairWords]

theorem getElem_symbols (s : State) (k : Nat) (h : k < s.symbols.length) : s.symbols[k] = s.symbolAt k := by
  simp [State.symbols, Memory.getElem_slice, State.symbolAt]

theorem getElem_pairWords (s : State) (k : Nat) (h : k < s.pairWords.length) : s.pairWords[k] = s.pairWordAt k := by
  simp [State.pairWords, Memory.getElem_slice, State.pairWordAt]

end Sys2Proof.Machine
end

