-- ==== Sys2Proof/Laws/State.lean ====
section
/-! SUPPORT. What each named update of the state (Ops.lean, Control.lean) does to each field: one lemma per field per
update, each by rfl, so that no proof unfolds a record update. -/

namespace Sys2Proof.Machine

variable (s : State)

/-! ### `State.withF` -/

@[simp] theorem State.withF_params (v : Block F64) : (s.withF v).params = s.params := rfl
@[simp] theorem State.withF_x (v : Block F64) : (s.withF v).x = s.x := rfl
@[simp] theorem State.withF_f (v : Block F64) : (s.withF v).f = v := rfl
@[simp] theorem State.withF_z (v : Block F64) : (s.withF v).z = s.z := rfl
@[simp] theorem State.withF_sBuf (v : Block F64) : (s.withF v).sBuf = s.sBuf := rfl
@[simp] theorem State.withF_pBuf (v : Block F64) : (s.withF v).pBuf = s.pBuf := rfl
@[simp] theorem State.withF_bs (v : Block F64) : (s.withF v).bs = s.bs := rfl
@[simp] theorem State.withF_freq (v : Block F64) : (s.withF v).freq = s.freq := rfl
@[simp] theorem State.withF_code (v : Block F64) : (s.withF v).code = s.code := rfl
@[simp] theorem State.withF_faulted (v : Block F64) : (s.withF v).faulted = s.faulted := rfl
@[simp] theorem State.withF_plock (v : Block F64) : (s.withF v).plock = s.plock := rfl
@[simp] theorem State.withF_err (v : Block F64) : (s.withF v).err = s.err := rfl
@[simp] theorem State.withF_errCmd (v : Block F64) : (s.withF v).errCmd = s.errCmd := rfl
@[simp] theorem State.withF_errTag (v : Block F64) : (s.withF v).errTag = s.errTag := rfl
@[simp] theorem State.withF_errInfo (v : Block F64) : (s.withF v).errInfo = s.errInfo := rfl
@[simp] theorem State.withF_tag (v : Block F64) : (s.withF v).tag = s.tag := rfl
@[simp] theorem State.withF_prof (v : Block F64) : (s.withF v).prof = s.prof := rfl
@[simp] theorem State.withF_slen (v : Block F64) : (s.withF v).slen = s.slen := rfl
@[simp] theorem State.withF_plen (v : Block F64) : (s.withF v).plen = s.plen := rfl
@[simp] theorem State.withF_nsym (v : Block F64) : (s.withF v).nsym = s.nsym := rfl
@[simp] theorem State.withF_bitLen (v : Block F64) : (s.withF v).bitLen = s.bitLen := rfl
@[simp] theorem State.withF_bsLen (v : Block F64) : (s.withF v).bsLen = s.bsLen := rfl
@[simp] theorem State.withF_flagE (v : Block F64) : (s.withF v).flagE = s.flagE := rfl
@[simp] theorem State.withF_flagS1 (v : Block F64) : (s.withF v).flagS1 = s.flagS1 := rfl
@[simp] theorem State.withF_flagPB (v : Block F64) : (s.withF v).flagPB = s.flagPB := rfl
@[simp] theorem State.withF_draws (v : Block F64) : (s.withF v).draws = s.draws := rfl
@[simp] theorem State.withF_pending (v : Block F64) : (s.withF v).pending = s.pending := rfl
@[simp] theorem State.withF_answers (v : Block F64) : (s.withF v).answers = s.answers := rfl

/-! ### `State.withX` -/

@[simp] theorem State.withX_params (v : Block F64) : (s.withX v).params = s.params := rfl
@[simp] theorem State.withX_x (v : Block F64) : (s.withX v).x = v := rfl
@[simp] theorem State.withX_f (v : Block F64) : (s.withX v).f = s.f := rfl
@[simp] theorem State.withX_z (v : Block F64) : (s.withX v).z = s.z := rfl
@[simp] theorem State.withX_sBuf (v : Block F64) : (s.withX v).sBuf = s.sBuf := rfl
@[simp] theorem State.withX_pBuf (v : Block F64) : (s.withX v).pBuf = s.pBuf := rfl
@[simp] theorem State.withX_bs (v : Block F64) : (s.withX v).bs = s.bs := rfl
@[simp] theorem State.withX_freq (v : Block F64) : (s.withX v).freq = s.freq := rfl
@[simp] theorem State.withX_code (v : Block F64) : (s.withX v).code = s.code := rfl
@[simp] theorem State.withX_faulted (v : Block F64) : (s.withX v).faulted = s.faulted := rfl
@[simp] theorem State.withX_plock (v : Block F64) : (s.withX v).plock = s.plock := rfl
@[simp] theorem State.withX_err (v : Block F64) : (s.withX v).err = s.err := rfl
@[simp] theorem State.withX_errCmd (v : Block F64) : (s.withX v).errCmd = s.errCmd := rfl
@[simp] theorem State.withX_errTag (v : Block F64) : (s.withX v).errTag = s.errTag := rfl
@[simp] theorem State.withX_errInfo (v : Block F64) : (s.withX v).errInfo = s.errInfo := rfl
@[simp] theorem State.withX_tag (v : Block F64) : (s.withX v).tag = s.tag := rfl
@[simp] theorem State.withX_prof (v : Block F64) : (s.withX v).prof = s.prof := rfl
@[simp] theorem State.withX_slen (v : Block F64) : (s.withX v).slen = s.slen := rfl
@[simp] theorem State.withX_plen (v : Block F64) : (s.withX v).plen = s.plen := rfl
@[simp] theorem State.withX_nsym (v : Block F64) : (s.withX v).nsym = s.nsym := rfl
@[simp] theorem State.withX_bitLen (v : Block F64) : (s.withX v).bitLen = s.bitLen := rfl
@[simp] theorem State.withX_bsLen (v : Block F64) : (s.withX v).bsLen = s.bsLen := rfl
@[simp] theorem State.withX_flagE (v : Block F64) : (s.withX v).flagE = s.flagE := rfl
@[simp] theorem State.withX_flagS1 (v : Block F64) : (s.withX v).flagS1 = s.flagS1 := rfl
@[simp] theorem State.withX_flagPB (v : Block F64) : (s.withX v).flagPB = s.flagPB := rfl
@[simp] theorem State.withX_draws (v : Block F64) : (s.withX v).draws = s.draws := rfl
@[simp] theorem State.withX_pending (v : Block F64) : (s.withX v).pending = s.pending := rfl
@[simp] theorem State.withX_answers (v : Block F64) : (s.withX v).answers = s.answers := rfl

/-! ### `State.withZ` -/

@[simp] theorem State.withZ_params (v : Block Symbol) : (s.withZ v).params = s.params := rfl
@[simp] theorem State.withZ_x (v : Block Symbol) : (s.withZ v).x = s.x := rfl
@[simp] theorem State.withZ_f (v : Block Symbol) : (s.withZ v).f = s.f := rfl
@[simp] theorem State.withZ_z (v : Block Symbol) : (s.withZ v).z = v := rfl
@[simp] theorem State.withZ_sBuf (v : Block Symbol) : (s.withZ v).sBuf = s.sBuf := rfl
@[simp] theorem State.withZ_pBuf (v : Block Symbol) : (s.withZ v).pBuf = s.pBuf := rfl
@[simp] theorem State.withZ_bs (v : Block Symbol) : (s.withZ v).bs = s.bs := rfl
@[simp] theorem State.withZ_freq (v : Block Symbol) : (s.withZ v).freq = s.freq := rfl
@[simp] theorem State.withZ_code (v : Block Symbol) : (s.withZ v).code = s.code := rfl
@[simp] theorem State.withZ_faulted (v : Block Symbol) : (s.withZ v).faulted = s.faulted := rfl
@[simp] theorem State.withZ_plock (v : Block Symbol) : (s.withZ v).plock = s.plock := rfl
@[simp] theorem State.withZ_err (v : Block Symbol) : (s.withZ v).err = s.err := rfl
@[simp] theorem State.withZ_errCmd (v : Block Symbol) : (s.withZ v).errCmd = s.errCmd := rfl
@[simp] theorem State.withZ_errTag (v : Block Symbol) : (s.withZ v).errTag = s.errTag := rfl
@[simp] theorem State.withZ_errInfo (v : Block Symbol) : (s.withZ v).errInfo = s.errInfo := rfl
@[simp] theorem State.withZ_tag (v : Block Symbol) : (s.withZ v).tag = s.tag := rfl
@[simp] theorem State.withZ_prof (v : Block Symbol) : (s.withZ v).prof = s.prof := rfl
@[simp] theorem State.withZ_slen (v : Block Symbol) : (s.withZ v).slen = s.slen := rfl
@[simp] theorem State.withZ_plen (v : Block Symbol) : (s.withZ v).plen = s.plen := rfl
@[simp] theorem State.withZ_nsym (v : Block Symbol) : (s.withZ v).nsym = s.nsym := rfl
@[simp] theorem State.withZ_bitLen (v : Block Symbol) : (s.withZ v).bitLen = s.bitLen := rfl
@[simp] theorem State.withZ_bsLen (v : Block Symbol) : (s.withZ v).bsLen = s.bsLen := rfl
@[simp] theorem State.withZ_flagE (v : Block Symbol) : (s.withZ v).flagE = s.flagE := rfl
@[simp] theorem State.withZ_flagS1 (v : Block Symbol) : (s.withZ v).flagS1 = s.flagS1 := rfl
@[simp] theorem State.withZ_flagPB (v : Block Symbol) : (s.withZ v).flagPB = s.flagPB := rfl
@[simp] theorem State.withZ_draws (v : Block Symbol) : (s.withZ v).draws = s.draws := rfl
@[simp] theorem State.withZ_pending (v : Block Symbol) : (s.withZ v).pending = s.pending := rfl
@[simp] theorem State.withZ_answers (v : Block Symbol) : (s.withZ v).answers = s.answers := rfl

/-! ### `State.drawn` -/

@[simp] theorem State.drawn_params (n : Nat) : (s.drawn n).params = s.params := rfl
@[simp] theorem State.drawn_x (n : Nat) : (s.drawn n).x = s.x := rfl
@[simp] theorem State.drawn_f (n : Nat) : (s.drawn n).f = s.f := rfl
@[simp] theorem State.drawn_z (n : Nat) : (s.drawn n).z = s.z := rfl
@[simp] theorem State.drawn_sBuf (n : Nat) : (s.drawn n).sBuf = s.sBuf := rfl
@[simp] theorem State.drawn_pBuf (n : Nat) : (s.drawn n).pBuf = s.pBuf := rfl
@[simp] theorem State.drawn_bs (n : Nat) : (s.drawn n).bs = s.bs := rfl
@[simp] theorem State.drawn_freq (n : Nat) : (s.drawn n).freq = s.freq := rfl
@[simp] theorem State.drawn_code (n : Nat) : (s.drawn n).code = s.code := rfl
@[simp] theorem State.drawn_faulted (n : Nat) : (s.drawn n).faulted = s.faulted := rfl
@[simp] theorem State.drawn_plock (n : Nat) : (s.drawn n).plock = s.plock := rfl
@[simp] theorem State.drawn_err (n : Nat) : (s.drawn n).err = s.err := rfl
@[simp] theorem State.drawn_errCmd (n : Nat) : (s.drawn n).errCmd = s.errCmd := rfl
@[simp] theorem State.drawn_errTag (n : Nat) : (s.drawn n).errTag = s.errTag := rfl
@[simp] theorem State.drawn_errInfo (n : Nat) : (s.drawn n).errInfo = s.errInfo := rfl
@[simp] theorem State.drawn_tag (n : Nat) : (s.drawn n).tag = s.tag := rfl
@[simp] theorem State.drawn_prof (n : Nat) : (s.drawn n).prof = s.prof := rfl
@[simp] theorem State.drawn_slen (n : Nat) : (s.drawn n).slen = s.slen := rfl
@[simp] theorem State.drawn_plen (n : Nat) : (s.drawn n).plen = s.plen := rfl
@[simp] theorem State.drawn_nsym (n : Nat) : (s.drawn n).nsym = s.nsym := rfl
@[simp] theorem State.drawn_bitLen (n : Nat) : (s.drawn n).bitLen = s.bitLen := rfl
@[simp] theorem State.drawn_bsLen (n : Nat) : (s.drawn n).bsLen = s.bsLen := rfl
@[simp] theorem State.drawn_flagE (n : Nat) : (s.drawn n).flagE = s.flagE := rfl
@[simp] theorem State.drawn_flagS1 (n : Nat) : (s.drawn n).flagS1 = s.flagS1 := rfl
@[simp] theorem State.drawn_flagPB (n : Nat) : (s.drawn n).flagPB = s.flagPB := rfl
@[simp] theorem State.drawn_draws (n : Nat) : (s.drawn n).draws = s.draws + n := rfl
@[simp] theorem State.drawn_pending (n : Nat) : (s.drawn n).pending = s.pending := rfl
@[simp] theorem State.drawn_answers (n : Nat) : (s.drawn n).answers = s.answers := rfl

/-! ### `State.withSymbols` -/

@[simp] theorem State.withSymbols_params (m : Memory Symbol) (n : Nat) : (s.withSymbols m n).params = s.params := rfl
@[simp] theorem State.withSymbols_x (m : Memory Symbol) (n : Nat) : (s.withSymbols m n).x = s.x := rfl
@[simp] theorem State.withSymbols_f (m : Memory Symbol) (n : Nat) : (s.withSymbols m n).f = s.f := rfl
@[simp] theorem State.withSymbols_z (m : Memory Symbol) (n : Nat) : (s.withSymbols m n).z = s.z := rfl
@[simp] theorem State.withSymbols_sBuf (m : Memory Symbol) (n : Nat) : (s.withSymbols m n).sBuf = m := rfl
@[simp] theorem State.withSymbols_pBuf (m : Memory Symbol) (n : Nat) : (s.withSymbols m n).pBuf = s.pBuf := rfl
@[simp] theorem State.withSymbols_bs (m : Memory Symbol) (n : Nat) : (s.withSymbols m n).bs = s.bs := rfl
@[simp] theorem State.withSymbols_freq (m : Memory Symbol) (n : Nat) : (s.withSymbols m n).freq = s.freq := rfl
@[simp] theorem State.withSymbols_code (m : Memory Symbol) (n : Nat) : (s.withSymbols m n).code = s.code := rfl
@[simp] theorem State.withSymbols_faulted (m : Memory Symbol) (n : Nat) : (s.withSymbols m n).faulted = s.faulted := rfl
@[simp] theorem State.withSymbols_plock (m : Memory Symbol) (n : Nat) : (s.withSymbols m n).plock = s.plock := rfl
@[simp] theorem State.withSymbols_err (m : Memory Symbol) (n : Nat) : (s.withSymbols m n).err = s.err := rfl
@[simp] theorem State.withSymbols_errCmd (m : Memory Symbol) (n : Nat) : (s.withSymbols m n).errCmd = s.errCmd := rfl
@[simp] theorem State.withSymbols_errTag (m : Memory Symbol) (n : Nat) : (s.withSymbols m n).errTag = s.errTag := rfl
@[simp] theorem State.withSymbols_errInfo (m : Memory Symbol) (n : Nat) : (s.withSymbols m n).errInfo = s.errInfo := rfl
@[simp] theorem State.withSymbols_tag (m : Memory Symbol) (n : Nat) : (s.withSymbols m n).tag = s.tag := rfl
@[simp] theorem State.withSymbols_prof (m : Memory Symbol) (n : Nat) : (s.withSymbols m n).prof = s.prof := rfl
@[simp] theorem State.withSymbols_slen (m : Memory Symbol) (n : Nat) : (s.withSymbols m n).slen = BitVec.ofNat 23 n := rfl
@[simp] theorem State.withSymbols_plen (m : Memory Symbol) (n : Nat) : (s.withSymbols m n).plen = s.plen := rfl
@[simp] theorem State.withSymbols_nsym (m : Memory Symbol) (n : Nat) : (s.withSymbols m n).nsym = s.nsym := rfl
@[simp] theorem State.withSymbols_bitLen (m : Memory Symbol) (n : Nat) : (s.withSymbols m n).bitLen = s.bitLen := rfl
@[simp] theorem State.withSymbols_bsLen (m : Memory Symbol) (n : Nat) : (s.withSymbols m n).bsLen = s.bsLen := rfl
@[simp] theorem State.withSymbols_flagE (m : Memory Symbol) (n : Nat) : (s.withSymbols m n).flagE = s.flagE := rfl
@[simp] theorem State.withSymbols_flagS1 (m : Memory Symbol) (n : Nat) : (s.withSymbols m n).flagS1 = s.flagS1 := rfl
@[simp] theorem State.withSymbols_flagPB (m : Memory Symbol) (n : Nat) : (s.withSymbols m n).flagPB = s.flagPB := rfl
@[simp] theorem State.withSymbols_draws (m : Memory Symbol) (n : Nat) : (s.withSymbols m n).draws = s.draws := rfl
@[simp] theorem State.withSymbols_pending (m : Memory Symbol) (n : Nat) : (s.withSymbols m n).pending = s.pending := rfl
@[simp] theorem State.withSymbols_answers (m : Memory Symbol) (n : Nat) : (s.withSymbols m n).answers = s.answers := rfl

/-! ### `State.withPairs` -/

@[simp] theorem State.withPairs_params (m : Memory Word) (n : Nat) : (s.withPairs m n).params = s.params := rfl
@[simp] theorem State.withPairs_x (m : Memory Word) (n : Nat) : (s.withPairs m n).x = s.x := rfl
@[simp] theorem State.withPairs_f (m : Memory Word) (n : Nat) : (s.withPairs m n).f = s.f := rfl
@[simp] theorem State.withPairs_z (m : Memory Word) (n : Nat) : (s.withPairs m n).z = s.z := rfl
@[simp] theorem State.withPairs_sBuf (m : Memory Word) (n : Nat) : (s.withPairs m n).sBuf = s.sBuf := rfl
@[simp] theorem State.withPairs_pBuf (m : Memory Word) (n : Nat) : (s.withPairs m n).pBuf = m := rfl
@[simp] theorem State.withPairs_bs (m : Memory Word) (n : Nat) : (s.withPairs m n).bs = s.bs := rfl
@[simp] theorem State.withPairs_freq (m : Memory Word) (n : Nat) : (s.withPairs m n).freq = s.freq := rfl
@[simp] theorem State.withPairs_code (m : Memory Word) (n : Nat) : (s.withPairs m n).code = s.code := rfl
@[simp] theorem State.withPairs_faulted (m : Memory Word) (n : Nat) : (s.withPairs m n).faulted = s.faulted := rfl
@[simp] theorem State.withPairs_plock (m : Memory Word) (n : Nat) : (s.withPairs m n).plock = s.plock := rfl
@[simp] theorem State.withPairs_err (m : Memory Word) (n : Nat) : (s.withPairs m n).err = s.err := rfl
@[simp] theorem State.withPairs_errCmd (m : Memory Word) (n : Nat) : (s.withPairs m n).errCmd = s.errCmd := rfl
@[simp] theorem State.withPairs_errTag (m : Memory Word) (n : Nat) : (s.withPairs m n).errTag = s.errTag := rfl
@[simp] theorem State.withPairs_errInfo (m : Memory Word) (n : Nat) : (s.withPairs m n).errInfo = s.errInfo := rfl
@[simp] theorem State.withPairs_tag (m : Memory Word) (n : Nat) : (s.withPairs m n).tag = s.tag := rfl
@[simp] theorem State.withPairs_prof (m : Memory Word) (n : Nat) : (s.withPairs m n).prof = s.prof := rfl
@[simp] theorem State.withPairs_slen (m : Memory Word) (n : Nat) : (s.withPairs m n).slen = s.slen := rfl
@[simp] theorem State.withPairs_plen (m : Memory Word) (n : Nat) : (s.withPairs m n).plen = BitVec.ofNat 24 n := rfl
@[simp] theorem State.withPairs_nsym (m : Memory Word) (n : Nat) : (s.withPairs m n).nsym = s.nsym := rfl
@[simp] theorem State.withPairs_bitLen (m : Memory Word) (n : Nat) : (s.withPairs m n).bitLen = s.bitLen := rfl
@[simp] theorem State.withPairs_bsLen (m : Memory Word) (n : Nat) : (s.withPairs m n).bsLen = s.bsLen := rfl
@[simp] theorem State.withPairs_flagE (m : Memory Word) (n : Nat) : (s.withPairs m n).flagE = s.flagE := rfl
@[simp] theorem State.withPairs_flagS1 (m : Memory Word) (n : Nat) : (s.withPairs m n).flagS1 = s.flagS1 := rfl
@[simp] theorem State.withPairs_flagPB (m : Memory Word) (n : Nat) : (s.withPairs m n).flagPB = s.flagPB := rfl
@[simp] theorem State.withPairs_draws (m : Memory Word) (n : Nat) : (s.withPairs m n).draws = s.draws := rfl
@[simp] theorem State.withPairs_pending (m : Memory Word) (n : Nat) : (s.withPairs m n).pending = s.pending := rfl
@[simp] theorem State.withPairs_answers (m : Memory Word) (n : Nat) : (s.withPairs m n).answers = s.answers := rfl

/-! ### `State.withTables` -/

@[simp] theorem State.withTables_params (w : Memory Weight) (k : Nat) (c : Memory CodeEntry) : (s.withTables w k c).params = s.params := rfl
@[simp] theorem State.withTables_x (w : Memory Weight) (k : Nat) (c : Memory CodeEntry) : (s.withTables w k c).x = s.x := rfl
@[simp] theorem State.withTables_f (w : Memory Weight) (k : Nat) (c : Memory CodeEntry) : (s.withTables w k c).f = s.f := rfl
@[simp] theorem State.withTables_z (w : Memory Weight) (k : Nat) (c : Memory CodeEntry) : (s.withTables w k c).z = s.z := rfl
@[simp] theorem State.withTables_sBuf (w : Memory Weight) (k : Nat) (c : Memory CodeEntry) : (s.withTables w k c).sBuf = s.sBuf := rfl
@[simp] theorem State.withTables_pBuf (w : Memory Weight) (k : Nat) (c : Memory CodeEntry) : (s.withTables w k c).pBuf = s.pBuf := rfl
@[simp] theorem State.withTables_bs (w : Memory Weight) (k : Nat) (c : Memory CodeEntry) : (s.withTables w k c).bs = s.bs := rfl
@[simp] theorem State.withTables_freq (w : Memory Weight) (k : Nat) (c : Memory CodeEntry) : (s.withTables w k c).freq = w := rfl
@[simp] theorem State.withTables_code (w : Memory Weight) (k : Nat) (c : Memory CodeEntry) : (s.withTables w k c).code = c := rfl
@[simp] theorem State.withTables_faulted (w : Memory Weight) (k : Nat) (c : Memory CodeEntry) : (s.withTables w k c).faulted = s.faulted := rfl
@[simp] theorem State.withTables_plock (w : Memory Weight) (k : Nat) (c : Memory CodeEntry) : (s.withTables w k c).plock = s.plock := rfl
@[simp] theorem State.withTables_err (w : Memory Weight) (k : Nat) (c : Memory CodeEntry) : (s.withTables w k c).err = s.err := rfl
@[simp] theorem State.withTables_errCmd (w : Memory Weight) (k : Nat) (c : Memory CodeEntry) : (s.withTables w k c).errCmd = s.errCmd := rfl
@[simp] theorem State.withTables_errTag (w : Memory Weight) (k : Nat) (c : Memory CodeEntry) : (s.withTables w k c).errTag = s.errTag := rfl
@[simp] theorem State.withTables_errInfo (w : Memory Weight) (k : Nat) (c : Memory CodeEntry) : (s.withTables w k c).errInfo = s.errInfo := rfl
@[simp] theorem State.withTables_tag (w : Memory Weight) (k : Nat) (c : Memory CodeEntry) : (s.withTables w k c).tag = s.tag := rfl
@[simp] theorem State.withTables_prof (w : Memory Weight) (k : Nat) (c : Memory CodeEntry) : (s.withTables w k c).prof = s.prof := rfl
@[simp] theorem State.withTables_slen (w : Memory Weight) (k : Nat) (c : Memory CodeEntry) : (s.withTables w k c).slen = s.slen := rfl
@[simp] theorem State.withTables_plen (w : Memory Weight) (k : Nat) (c : Memory CodeEntry) : (s.withTables w k c).plen = s.plen := rfl
@[simp] theorem State.withTables_nsym (w : Memory Weight) (k : Nat) (c : Memory CodeEntry) : (s.withTables w k c).nsym = BitVec.ofNat 17 k := rfl
@[simp] theorem State.withTables_bitLen (w : Memory Weight) (k : Nat) (c : Memory CodeEntry) : (s.withTables w k c).bitLen = s.bitLen := rfl
@[simp] theorem State.withTables_bsLen (w : Memory Weight) (k : Nat) (c : Memory CodeEntry) : (s.withTables w k c).bsLen = s.bsLen := rfl
@[simp] theorem State.withTables_flagE (w : Memory Weight) (k : Nat) (c : Memory CodeEntry) : (s.withTables w k c).flagE = s.flagE := rfl
@[simp] theorem State.withTables_flagS1 (w : Memory Weight) (k : Nat) (c : Memory CodeEntry) : (s.withTables w k c).flagS1 = s.flagS1 := rfl
@[simp] theorem State.withTables_flagPB (w : Memory Weight) (k : Nat) (c : Memory CodeEntry) : (s.withTables w k c).flagPB = s.flagPB := rfl
@[simp] theorem State.withTables_draws (w : Memory Weight) (k : Nat) (c : Memory CodeEntry) : (s.withTables w k c).draws = s.draws := rfl
@[simp] theorem State.withTables_pending (w : Memory Weight) (k : Nat) (c : Memory CodeEntry) : (s.withTables w k c).pending = s.pending := rfl
@[simp] theorem State.withTables_answers (w : Memory Weight) (k : Nat) (c : Memory CodeEntry) : (s.withTables w k c).answers = s.answers := rfl

/-! ### `State.withStream` -/

@[simp] theorem State.withStream_params (m : Memory Byte) (n k : Nat) : (s.withStream m n k).params = s.params := rfl
@[simp] theorem State.withStream_x (m : Memory Byte) (n k : Nat) : (s.withStream m n k).x = s.x := rfl
@[simp] theorem State.withStream_f (m : Memory Byte) (n k : Nat) : (s.withStream m n k).f = s.f := rfl
@[simp] theorem State.withStream_z (m : Memory Byte) (n k : Nat) : (s.withStream m n k).z = s.z := rfl
@[simp] theorem State.withStream_sBuf (m : Memory Byte) (n k : Nat) : (s.withStream m n k).sBuf = s.sBuf := rfl
@[simp] theorem State.withStream_pBuf (m : Memory Byte) (n k : Nat) : (s.withStream m n k).pBuf = s.pBuf := rfl
@[simp] theorem State.withStream_bs (m : Memory Byte) (n k : Nat) : (s.withStream m n k).bs = m := rfl
@[simp] theorem State.withStream_freq (m : Memory Byte) (n k : Nat) : (s.withStream m n k).freq = s.freq := rfl
@[simp] theorem State.withStream_code (m : Memory Byte) (n k : Nat) : (s.withStream m n k).code = s.code := rfl
@[simp] theorem State.withStream_faulted (m : Memory Byte) (n k : Nat) : (s.withStream m n k).faulted = s.faulted := rfl
@[simp] theorem State.withStream_plock (m : Memory Byte) (n k : Nat) : (s.withStream m n k).plock = s.plock := rfl
@[simp] theorem State.withStream_err (m : Memory Byte) (n k : Nat) : (s.withStream m n k).err = s.err := rfl
@[simp] theorem State.withStream_errCmd (m : Memory Byte) (n k : Nat) : (s.withStream m n k).errCmd = s.errCmd := rfl
@[simp] theorem State.withStream_errTag (m : Memory Byte) (n k : Nat) : (s.withStream m n k).errTag = s.errTag := rfl
@[simp] theorem State.withStream_errInfo (m : Memory Byte) (n k : Nat) : (s.withStream m n k).errInfo = s.errInfo := rfl
@[simp] theorem State.withStream_tag (m : Memory Byte) (n k : Nat) : (s.withStream m n k).tag = s.tag := rfl
@[simp] theorem State.withStream_prof (m : Memory Byte) (n k : Nat) : (s.withStream m n k).prof = s.prof := rfl
@[simp] theorem State.withStream_slen (m : Memory Byte) (n k : Nat) : (s.withStream m n k).slen = s.slen := rfl
@[simp] theorem State.withStream_plen (m : Memory Byte) (n k : Nat) : (s.withStream m n k).plen = s.plen := rfl
@[simp] theorem State.withStream_nsym (m : Memory Byte) (n k : Nat) : (s.withStream m n k).nsym = s.nsym := rfl
@[simp] theorem State.withStream_bitLen (m : Memory Byte) (n k : Nat) : (s.withStream m n k).bitLen = BitVec.ofNat 32 n := rfl
@[simp] theorem State.withStream_bsLen (m : Memory Byte) (n k : Nat) : (s.withStream m n k).bsLen = BitVec.ofNat 32 k := rfl
@[simp] theorem State.withStream_flagE (m : Memory Byte) (n k : Nat) : (s.withStream m n k).flagE = s.flagE := rfl
@[simp] theorem State.withStream_flagS1 (m : Memory Byte) (n k : Nat) : (s.withStream m n k).flagS1 = s.flagS1 := rfl
@[simp] theorem State.withStream_flagPB (m : Memory Byte) (n k : Nat) : (s.withStream m n k).flagPB = s.flagPB := rfl
@[simp] theorem State.withStream_draws (m : Memory Byte) (n k : Nat) : (s.withStream m n k).draws = s.draws := rfl
@[simp] theorem State.withStream_pending (m : Memory Byte) (n k : Nat) : (s.withStream m n k).pending = s.pending := rfl
@[simp] theorem State.withStream_answers (m : Memory Byte) (n k : Nat) : (s.withStream m n k).answers = s.answers := rfl

/-! ### `State.withE` -/

@[simp] theorem State.withE_params (b : Bool) : (s.withE b).params = s.params := rfl
@[simp] theorem State.withE_x (b : Bool) : (s.withE b).x = s.x := rfl
@[simp] theorem State.withE_f (b : Bool) : (s.withE b).f = s.f := rfl
@[simp] theorem State.withE_z (b : Bool) : (s.withE b).z = s.z := rfl
@[simp] theorem State.withE_sBuf (b : Bool) : (s.withE b).sBuf = s.sBuf := rfl
@[simp] theorem State.withE_pBuf (b : Bool) : (s.withE b).pBuf = s.pBuf := rfl
@[simp] theorem State.withE_bs (b : Bool) : (s.withE b).bs = s.bs := rfl
@[simp] theorem State.withE_freq (b : Bool) : (s.withE b).freq = s.freq := rfl
@[simp] theorem State.withE_code (b : Bool) : (s.withE b).code = s.code := rfl
@[simp] theorem State.withE_faulted (b : Bool) : (s.withE b).faulted = s.faulted := rfl
@[simp] theorem State.withE_plock (b : Bool) : (s.withE b).plock = s.plock := rfl
@[simp] theorem State.withE_err (b : Bool) : (s.withE b).err = s.err := rfl
@[simp] theorem State.withE_errCmd (b : Bool) : (s.withE b).errCmd = s.errCmd := rfl
@[simp] theorem State.withE_errTag (b : Bool) : (s.withE b).errTag = s.errTag := rfl
@[simp] theorem State.withE_errInfo (b : Bool) : (s.withE b).errInfo = s.errInfo := rfl
@[simp] theorem State.withE_tag (b : Bool) : (s.withE b).tag = s.tag := rfl
@[simp] theorem State.withE_prof (b : Bool) : (s.withE b).prof = s.prof := rfl
@[simp] theorem State.withE_slen (b : Bool) : (s.withE b).slen = s.slen := rfl
@[simp] theorem State.withE_plen (b : Bool) : (s.withE b).plen = s.plen := rfl
@[simp] theorem State.withE_nsym (b : Bool) : (s.withE b).nsym = s.nsym := rfl
@[simp] theorem State.withE_bitLen (b : Bool) : (s.withE b).bitLen = s.bitLen := rfl
@[simp] theorem State.withE_bsLen (b : Bool) : (s.withE b).bsLen = s.bsLen := rfl
@[simp] theorem State.withE_flagE (b : Bool) : (s.withE b).flagE = b := rfl
@[simp] theorem State.withE_flagS1 (b : Bool) : (s.withE b).flagS1 = s.flagS1 := rfl
@[simp] theorem State.withE_flagPB (b : Bool) : (s.withE b).flagPB = s.flagPB := rfl
@[simp] theorem State.withE_draws (b : Bool) : (s.withE b).draws = s.draws := rfl
@[simp] theorem State.withE_pending (b : Bool) : (s.withE b).pending = s.pending := rfl
@[simp] theorem State.withE_answers (b : Bool) : (s.withE b).answers = s.answers := rfl

/-! ### `State.withS1` -/

@[simp] theorem State.withS1_params (b : Bool) : (s.withS1 b).params = s.params := rfl
@[simp] theorem State.withS1_x (b : Bool) : (s.withS1 b).x = s.x := rfl
@[simp] theorem State.withS1_f (b : Bool) : (s.withS1 b).f = s.f := rfl
@[simp] theorem State.withS1_z (b : Bool) : (s.withS1 b).z = s.z := rfl
@[simp] theorem State.withS1_sBuf (b : Bool) : (s.withS1 b).sBuf = s.sBuf := rfl
@[simp] theorem State.withS1_pBuf (b : Bool) : (s.withS1 b).pBuf = s.pBuf := rfl
@[simp] theorem State.withS1_bs (b : Bool) : (s.withS1 b).bs = s.bs := rfl
@[simp] theorem State.withS1_freq (b : Bool) : (s.withS1 b).freq = s.freq := rfl
@[simp] theorem State.withS1_code (b : Bool) : (s.withS1 b).code = s.code := rfl
@[simp] theorem State.withS1_faulted (b : Bool) : (s.withS1 b).faulted = s.faulted := rfl
@[simp] theorem State.withS1_plock (b : Bool) : (s.withS1 b).plock = s.plock := rfl
@[simp] theorem State.withS1_err (b : Bool) : (s.withS1 b).err = s.err := rfl
@[simp] theorem State.withS1_errCmd (b : Bool) : (s.withS1 b).errCmd = s.errCmd := rfl
@[simp] theorem State.withS1_errTag (b : Bool) : (s.withS1 b).errTag = s.errTag := rfl
@[simp] theorem State.withS1_errInfo (b : Bool) : (s.withS1 b).errInfo = s.errInfo := rfl
@[simp] theorem State.withS1_tag (b : Bool) : (s.withS1 b).tag = s.tag := rfl
@[simp] theorem State.withS1_prof (b : Bool) : (s.withS1 b).prof = s.prof := rfl
@[simp] theorem State.withS1_slen (b : Bool) : (s.withS1 b).slen = s.slen := rfl
@[simp] theorem State.withS1_plen (b : Bool) : (s.withS1 b).plen = s.plen := rfl
@[simp] theorem State.withS1_nsym (b : Bool) : (s.withS1 b).nsym = s.nsym := rfl
@[simp] theorem State.withS1_bitLen (b : Bool) : (s.withS1 b).bitLen = s.bitLen := rfl
@[simp] theorem State.withS1_bsLen (b : Bool) : (s.withS1 b).bsLen = s.bsLen := rfl
@[simp] theorem State.withS1_flagE (b : Bool) : (s.withS1 b).flagE = s.flagE := rfl
@[simp] theorem State.withS1_flagS1 (b : Bool) : (s.withS1 b).flagS1 = b := rfl
@[simp] theorem State.withS1_flagPB (b : Bool) : (s.withS1 b).flagPB = s.flagPB := rfl
@[simp] theorem State.withS1_draws (b : Bool) : (s.withS1 b).draws = s.draws := rfl
@[simp] theorem State.withS1_pending (b : Bool) : (s.withS1 b).pending = s.pending := rfl
@[simp] theorem State.withS1_answers (b : Bool) : (s.withS1 b).answers = s.answers := rfl

/-! ### `State.withPB` -/

@[simp] theorem State.withPB_params (b : Bool) : (s.withPB b).params = s.params := rfl
@[simp] theorem State.withPB_x (b : Bool) : (s.withPB b).x = s.x := rfl
@[simp] theorem State.withPB_f (b : Bool) : (s.withPB b).f = s.f := rfl
@[simp] theorem State.withPB_z (b : Bool) : (s.withPB b).z = s.z := rfl
@[simp] theorem State.withPB_sBuf (b : Bool) : (s.withPB b).sBuf = s.sBuf := rfl
@[simp] theorem State.withPB_pBuf (b : Bool) : (s.withPB b).pBuf = s.pBuf := rfl
@[simp] theorem State.withPB_bs (b : Bool) : (s.withPB b).bs = s.bs := rfl
@[simp] theorem State.withPB_freq (b : Bool) : (s.withPB b).freq = s.freq := rfl
@[simp] theorem State.withPB_code (b : Bool) : (s.withPB b).code = s.code := rfl
@[simp] theorem State.withPB_faulted (b : Bool) : (s.withPB b).faulted = s.faulted := rfl
@[simp] theorem State.withPB_plock (b : Bool) : (s.withPB b).plock = s.plock := rfl
@[simp] theorem State.withPB_err (b : Bool) : (s.withPB b).err = s.err := rfl
@[simp] theorem State.withPB_errCmd (b : Bool) : (s.withPB b).errCmd = s.errCmd := rfl
@[simp] theorem State.withPB_errTag (b : Bool) : (s.withPB b).errTag = s.errTag := rfl
@[simp] theorem State.withPB_errInfo (b : Bool) : (s.withPB b).errInfo = s.errInfo := rfl
@[simp] theorem State.withPB_tag (b : Bool) : (s.withPB b).tag = s.tag := rfl
@[simp] theorem State.withPB_prof (b : Bool) : (s.withPB b).prof = s.prof := rfl
@[simp] theorem State.withPB_slen (b : Bool) : (s.withPB b).slen = s.slen := rfl
@[simp] theorem State.withPB_plen (b : Bool) : (s.withPB b).plen = s.plen := rfl
@[simp] theorem State.withPB_nsym (b : Bool) : (s.withPB b).nsym = s.nsym := rfl
@[simp] theorem State.withPB_bitLen (b : Bool) : (s.withPB b).bitLen = s.bitLen := rfl
@[simp] theorem State.withPB_bsLen (b : Bool) : (s.withPB b).bsLen = s.bsLen := rfl
@[simp] theorem State.withPB_flagE (b : Bool) : (s.withPB b).flagE = s.flagE := rfl
@[simp] theorem State.withPB_flagS1 (b : Bool) : (s.withPB b).flagS1 = s.flagS1 := rfl
@[simp] theorem State.withPB_flagPB (b : Bool) : (s.withPB b).flagPB = b := rfl
@[simp] theorem State.withPB_draws (b : Bool) : (s.withPB b).draws = s.draws := rfl
@[simp] theorem State.withPB_pending (b : Bool) : (s.withPB b).pending = s.pending := rfl
@[simp] theorem State.withPB_answers (b : Bool) : (s.withPB b).answers = s.answers := rfl

/-! ### `State.answered` -/

@[simp] theorem State.answered_params (a : HostAnswer) : (s.answered a).params = s.params := rfl
@[simp] theorem State.answered_x (a : HostAnswer) : (s.answered a).x = s.x := rfl
@[simp] theorem State.answered_f (a : HostAnswer) : (s.answered a).f = s.f := rfl
@[simp] theorem State.answered_z (a : HostAnswer) : (s.answered a).z = s.z := rfl
@[simp] theorem State.answered_sBuf (a : HostAnswer) : (s.answered a).sBuf = s.sBuf := rfl
@[simp] theorem State.answered_pBuf (a : HostAnswer) : (s.answered a).pBuf = s.pBuf := rfl
@[simp] theorem State.answered_bs (a : HostAnswer) : (s.answered a).bs = s.bs := rfl
@[simp] theorem State.answered_freq (a : HostAnswer) : (s.answered a).freq = s.freq := rfl
@[simp] theorem State.answered_code (a : HostAnswer) : (s.answered a).code = s.code := rfl
@[simp] theorem State.answered_faulted (a : HostAnswer) : (s.answered a).faulted = s.faulted := rfl
@[simp] theorem State.answered_plock (a : HostAnswer) : (s.answered a).plock = s.plock := rfl
@[simp] theorem State.answered_err (a : HostAnswer) : (s.answered a).err = s.err := rfl
@[simp] theorem State.answered_errCmd (a : HostAnswer) : (s.answered a).errCmd = s.errCmd := rfl
@[simp] theorem State.answered_errTag (a : HostAnswer) : (s.answered a).errTag = s.errTag := rfl
@[simp] theorem State.answered_errInfo (a : HostAnswer) : (s.answered a).errInfo = s.errInfo := rfl
@[simp] theorem State.answered_tag (a : HostAnswer) : (s.answered a).tag = s.tag := rfl
@[simp] theorem State.answered_prof (a : HostAnswer) : (s.answered a).prof = s.prof := rfl
@[simp] theorem State.answered_slen (a : HostAnswer) : (s.answered a).slen = s.slen := rfl
@[simp] theorem State.answered_plen (a : HostAnswer) : (s.answered a).plen = s.plen := rfl
@[simp] theorem State.answered_nsym (a : HostAnswer) : (s.answered a).nsym = s.nsym := rfl
@[simp] theorem State.answered_bitLen (a : HostAnswer) : (s.answered a).bitLen = s.bitLen := rfl
@[simp] theorem State.answered_bsLen (a : HostAnswer) : (s.answered a).bsLen = s.bsLen := rfl
@[simp] theorem State.answered_flagE (a : HostAnswer) : (s.answered a).flagE = s.flagE := rfl
@[simp] theorem State.answered_flagS1 (a : HostAnswer) : (s.answered a).flagS1 = s.flagS1 := rfl
@[simp] theorem State.answered_flagPB (a : HostAnswer) : (s.answered a).flagPB = s.flagPB := rfl
@[simp] theorem State.answered_draws (a : HostAnswer) : (s.answered a).draws = s.draws := rfl
@[simp] theorem State.answered_pending (a : HostAnswer) : (s.answered a).pending = s.pending := rfl
@[simp] theorem State.answered_answers (a : HostAnswer) : (s.answered a).answers = a :: s.answers := rfl

/-! ### `State.withPending` -/

@[simp] theorem State.withPending_params (l : List HostAction) : (s.withPending l).params = s.params := rfl
@[simp] theorem State.withPending_x (l : List HostAction) : (s.withPending l).x = s.x := rfl
@[simp] theorem State.withPending_f (l : List HostAction) : (s.withPending l).f = s.f := rfl
@[simp] theorem State.withPending_z (l : List HostAction) : (s.withPending l).z = s.z := rfl
@[simp] theorem State.withPending_sBuf (l : List HostAction) : (s.withPending l).sBuf = s.sBuf := rfl
@[simp] theorem State.withPending_pBuf (l : List HostAction) : (s.withPending l).pBuf = s.pBuf := rfl
@[simp] theorem State.withPending_bs (l : List HostAction) : (s.withPending l).bs = s.bs := rfl
@[simp] theorem State.withPending_freq (l : List HostAction) : (s.withPending l).freq = s.freq := rfl
@[simp] theorem State.withPending_code (l : List HostAction) : (s.withPending l).code = s.code := rfl
@[simp] theorem State.withPending_faulted (l : List HostAction) : (s.withPending l).faulted = s.faulted := rfl
@[simp] theorem State.withPending_plock (l : List HostAction) : (s.withPending l).plock = s.plock := rfl
@[simp] theorem State.withPending_err (l : List HostAction) : (s.withPending l).err = s.err := rfl
@[simp] theorem State.withPending_errCmd (l : List HostAction) : (s.withPending l).errCmd = s.errCmd := rfl
@[simp] theorem State.withPending_errTag (l : List HostAction) : (s.withPending l).errTag = s.errTag := rfl
@[simp] theorem State.withPending_errInfo (l : List HostAction) : (s.withPending l).errInfo = s.errInfo := rfl
@[simp] theorem State.withPending_tag (l : List HostAction) : (s.withPending l).tag = s.tag := rfl
@[simp] theorem State.withPending_prof (l : List HostAction) : (s.withPending l).prof = s.prof := rfl
@[simp] theorem State.withPending_slen (l : List HostAction) : (s.withPending l).slen = s.slen := rfl
@[simp] theorem State.withPending_plen (l : List HostAction) : (s.withPending l).plen = s.plen := rfl
@[simp] theorem State.withPending_nsym (l : List HostAction) : (s.withPending l).nsym = s.nsym := rfl
@[simp] theorem State.withPending_bitLen (l : List HostAction) : (s.withPending l).bitLen = s.bitLen := rfl
@[simp] theorem State.withPending_bsLen (l : List HostAction) : (s.withPending l).bsLen = s.bsLen := rfl
@[simp] theorem State.withPending_flagE (l : List HostAction) : (s.withPending l).flagE = s.flagE := rfl
@[simp] theorem State.withPending_flagS1 (l : List HostAction) : (s.withPending l).flagS1 = s.flagS1 := rfl
@[simp] theorem State.withPending_flagPB (l : List HostAction) : (s.withPending l).flagPB = s.flagPB := rfl
@[simp] theorem State.withPending_draws (l : List HostAction) : (s.withPending l).draws = s.draws := rfl
@[simp] theorem State.withPending_pending (l : List HostAction) : (s.withPending l).pending = l := rfl
@[simp] theorem State.withPending_answers (l : List HostAction) : (s.withPending l).answers = s.answers := rfl

/-! ### `State.raise` -/

@[simp] theorem State.raise_params (w : Word) (r : Raise) : (s.raise w r).params = s.params := rfl
@[simp] theorem State.raise_x (w : Word) (r : Raise) : (s.raise w r).x = s.x := rfl
@[simp] theorem State.raise_f (w : Word) (r : Raise) : (s.raise w r).f = s.f := rfl
@[simp] theorem State.raise_z (w : Word) (r : Raise) : (s.raise w r).z = s.z := rfl
@[simp] theorem State.raise_sBuf (w : Word) (r : Raise) : (s.raise w r).sBuf = s.sBuf := rfl
@[simp] theorem State.raise_pBuf (w : Word) (r : Raise) : (s.raise w r).pBuf = s.pBuf := rfl
@[simp] theorem State.raise_bs (w : Word) (r : Raise) : (s.raise w r).bs = s.bs := rfl
@[simp] theorem State.raise_freq (w : Word) (r : Raise) : (s.raise w r).freq = s.freq := rfl
@[simp] theorem State.raise_code (w : Word) (r : Raise) : (s.raise w r).code = s.code := rfl
@[simp] theorem State.raise_faulted (w : Word) (r : Raise) : (s.raise w r).faulted = true := rfl
@[simp] theorem State.raise_plock (w : Word) (r : Raise) : (s.raise w r).plock = s.plock := rfl
@[simp] theorem State.raise_err (w : Word) (r : Raise) : (s.raise w r).err = r.cause.errCode := rfl
@[simp] theorem State.raise_errCmd (w : Word) (r : Raise) : (s.raise w r).errCmd = w := rfl
@[simp] theorem State.raise_errTag (w : Word) (r : Raise) : (s.raise w r).errTag = s.tag := rfl
@[simp] theorem State.raise_errInfo (w : Word) (r : Raise) : (s.raise w r).errInfo = BitVec.ofNat 32 r.info := rfl
@[simp] theorem State.raise_tag (w : Word) (r : Raise) : (s.raise w r).tag = s.tag := rfl
@[simp] theorem State.raise_prof (w : Word) (r : Raise) : (s.raise w r).prof = s.prof := rfl
@[simp] theorem State.raise_slen (w : Word) (r : Raise) : (s.raise w r).slen = s.slen := rfl
@[simp] theorem State.raise_plen (w : Word) (r : Raise) : (s.raise w r).plen = s.plen := rfl
@[simp] theorem State.raise_nsym (w : Word) (r : Raise) : (s.raise w r).nsym = s.nsym := rfl
@[simp] theorem State.raise_bitLen (w : Word) (r : Raise) : (s.raise w r).bitLen = s.bitLen := rfl
@[simp] theorem State.raise_bsLen (w : Word) (r : Raise) : (s.raise w r).bsLen = s.bsLen := rfl
@[simp] theorem State.raise_flagE (w : Word) (r : Raise) : (s.raise w r).flagE = s.flagE := rfl
@[simp] theorem State.raise_flagS1 (w : Word) (r : Raise) : (s.raise w r).flagS1 = s.flagS1 := rfl
@[simp] theorem State.raise_flagPB (w : Word) (r : Raise) : (s.raise w r).flagPB = s.flagPB := rfl
@[simp] theorem State.raise_draws (w : Word) (r : Raise) : (s.raise w r).draws = s.draws := rfl
@[simp] theorem State.raise_pending (w : Word) (r : Raise) : (s.raise w r).pending = s.pending := rfl
@[simp] theorem State.raise_answers (w : Word) (r : Raise) : (s.raise w r).answers = s.answers := rfl

/-! ### `State.aborted` -/

@[simp] theorem State.aborted_params : s.aborted.params = s.params := rfl
@[simp] theorem State.aborted_x : s.aborted.x = s.x := rfl
@[simp] theorem State.aborted_f : s.aborted.f = s.f := rfl
@[simp] theorem State.aborted_z : s.aborted.z = s.z := rfl
@[simp] theorem State.aborted_sBuf : s.aborted.sBuf = s.sBuf := rfl
@[simp] theorem State.aborted_pBuf : s.aborted.pBuf = s.pBuf := rfl
@[simp] theorem State.aborted_bs : s.aborted.bs = s.bs := rfl
@[simp] theorem State.aborted_freq : s.aborted.freq = [] := rfl
@[simp] theorem State.aborted_code : s.aborted.code = [] := rfl
@[simp] theorem State.aborted_faulted : s.aborted.faulted = false := rfl
@[simp] theorem State.aborted_plock : s.aborted.plock = s.plock := rfl
@[simp] theorem State.aborted_err : s.aborted.err = 0 := rfl
@[simp] theorem State.aborted_errCmd : s.aborted.errCmd = 0 := rfl
@[simp] theorem State.aborted_errTag : s.aborted.errTag = 0 := rfl
@[simp] theorem State.aborted_errInfo : s.aborted.errInfo = 0 := rfl
@[simp] theorem State.aborted_tag : s.aborted.tag = s.tag := rfl
@[simp] theorem State.aborted_prof : s.aborted.prof = s.prof := rfl
@[simp] theorem State.aborted_slen : s.aborted.slen = 0 := rfl
@[simp] theorem State.aborted_plen : s.aborted.plen = 0 := rfl
@[simp] theorem State.aborted_nsym : s.aborted.nsym = 0 := rfl
@[simp] theorem State.aborted_bitLen : s.aborted.bitLen = 0 := rfl
@[simp] theorem State.aborted_bsLen : s.aborted.bsLen = 0 := rfl
@[simp] theorem State.aborted_flagE : s.aborted.flagE = false := rfl
@[simp] theorem State.aborted_flagS1 : s.aborted.flagS1 = false := rfl
@[simp] theorem State.aborted_flagPB : s.aborted.flagPB = false := rfl
@[simp] theorem State.aborted_draws : s.aborted.draws = s.draws := rfl
@[simp] theorem State.aborted_pending : s.aborted.pending = s.pending := rfl
@[simp] theorem State.aborted_answers : s.aborted.answers = s.answers := rfl

/-! ### `State.afterReset` -/

@[simp] theorem State.afterReset_params : s.afterReset.params = s.params := rfl
@[simp] theorem State.afterReset_x : s.afterReset.x = Vector.replicate 64 0 := rfl
@[simp] theorem State.afterReset_f : s.afterReset.f = Vector.replicate 64 0 := rfl
@[simp] theorem State.afterReset_z : s.afterReset.z = Vector.replicate 64 0 := rfl
@[simp] theorem State.afterReset_sBuf : s.afterReset.sBuf = [] := rfl
@[simp] theorem State.afterReset_pBuf : s.afterReset.pBuf = [] := rfl
@[simp] theorem State.afterReset_bs : s.afterReset.bs = [] := rfl
@[simp] theorem State.afterReset_freq : s.afterReset.freq = [] := rfl
@[simp] theorem State.afterReset_code : s.afterReset.code = [] := rfl
@[simp] theorem State.afterReset_faulted : s.afterReset.faulted = false := rfl
@[simp] theorem State.afterReset_plock : s.afterReset.plock = false := rfl
@[simp] theorem State.afterReset_err : s.afterReset.err = 0 := rfl
@[simp] theorem State.afterReset_errCmd : s.afterReset.errCmd = 0 := rfl
@[simp] theorem State.afterReset_errTag : s.afterReset.errTag = 0 := rfl
@[simp] theorem State.afterReset_errInfo : s.afterReset.errInfo = 0 := rfl
@[simp] theorem State.afterReset_tag : s.afterReset.tag = 0 := rfl
@[simp] theorem State.afterReset_prof : s.afterReset.prof = 0 := rfl
@[simp] theorem State.afterReset_slen : s.afterReset.slen = 0 := rfl
@[simp] theorem State.afterReset_plen : s.afterReset.plen = 0 := rfl
@[simp] theorem State.afterReset_nsym : s.afterReset.nsym = 0 := rfl
@[simp] theorem State.afterReset_bitLen : s.afterReset.bitLen = 0 := rfl
@[simp] theorem State.afterReset_bsLen : s.afterReset.bsLen = 0 := rfl
@[simp] theorem State.afterReset_flagE : s.afterReset.flagE = false := rfl
@[simp] theorem State.afterReset_flagS1 : s.afterReset.flagS1 = false := rfl
@[simp] theorem State.afterReset_flagPB : s.afterReset.flagPB = false := rfl
@[simp] theorem State.afterReset_draws : s.afterReset.draws = s.draws := rfl
@[simp] theorem State.afterReset_pending : s.afterReset.pending = s.pending := rfl
@[simp] theorem State.afterReset_answers : s.afterReset.answers = s.answers := rfl

end Sys2Proof.Machine
end

