-- ==== Sys2Proof/Laws/Ops.lean ====
section
/-! SUPPORT. What each shared operation can do, said once: the end of a command, the operand checks, executing a word, one
action of the host. -/

namespace Sys2Proof.Machine

/-- The end of a command is always a next state: the state it computed, or its fault entry. -/
theorem finish_eq_next (i : Instr) (s : State) (r : Except Raise State) :
    finish i s r = .next (match r with | .ok t => t | .error e => s.raise (encode i) e) := by
  cases r <;> rfl

@[simp] theorem finish_ok (i : Instr) (s t : State) : finish i s (.ok t) = .next t := rfl

@[simp] theorem finish_error (i : Instr) (s : State) (e : Raise) :
    finish i s (.error e) = .next (s.raise (encode i) e) := rfl

@[simp] theorem onNext_next (s : State) (k : State → State) : onNext (.next s) k = .next (k s) := rfl

@[simp] theorem except_bind_ok {ε α β : Type} (a : α) (k : α → Except ε β) : (Except.ok a >>= k) = k a := rfl

@[simp] theorem except_bind_error {ε α β : Type} (e : ε) (k : α → Except ε β) :
    (Except.error e >>= k) = Except.error e := rfl

@[simp] theorem except_pure {ε α : Type} (a : α) : (pure a : Except ε α) = .ok a := rfl

@[simp] theorem checkShape_eight : checkShape 8 8 = .ok () := rfl

theorem checkShape_wrong {rows cols : Nat} (h : ¬ (rows = 8 ∧ cols = 8)) :
    checkShape rows cols = .error ⟨.dimensionMismatch, rows * 16 + cols⟩ := if_neg h

@[simp] theorem checkLength_64 : checkLength 64 = .ok () := rfl

theorem checkLength_wrong {n : Nat} (h : n ≠ 64) : checkLength n = .error ⟨.dimensionMismatch, n⟩ := if_neg h

theorem checkProfile_locked {s : State} (h : s.plock = true) : checkProfile s = .ok () := if_pos h

theorem checkProfile_unlocked {s : State} (h : s.plock = false) : checkProfile s = .error ⟨.notConfigured, 0⟩ := by
  simp [checkProfile, h]

theorem checkRoom_fits {s : State} (h : s.slen.toNat + 64 ≤ s.params.smax) : checkRoom s = .ok () := if_pos h

theorem checkRoom_full {s : State} (h : s.params.smax < s.slen.toNat + 64) :
    checkRoom s = .error ⟨.seqBounds, s.slen.toNat⟩ := if_neg (by omega)

theorem checkSlice_inside {s : State} {blk : Nat} (h : 64 * blk + 64 ≤ s.slen.toNat) : checkSlice s blk = .ok () :=
  if_pos h

theorem checkSlice_outside {s : State} {blk : Nat} (h : s.slen.toNat < 64 * blk + 64) :
    checkSlice s blk = .error ⟨.seqBounds, 64 * blk⟩ := if_neg (by omega)

theorem checkParity_odd {n : Nat} (h : n % 2 = 1) : checkParity n = .error ⟨.malformedPairs, n - 1⟩ := if_pos h

theorem checkParity_even {n : Nat} (h : n % 2 = 0) : checkParity n = .ok () := if_neg (by omega)

/-- A faulted engine: `ABORT`, or nothing. -/
theorem execute_faulted {s : State} (w : Word) (h : s.faulted = true) :
    execute w s = if decode w = .ok .abort then .next s.aborted else .next s := by
  simp [execute, executeFaulted, h, exec, execAbort]

/-- An unfaulted engine and a command. -/
theorem execute_command {s : State} {w : Word} {i : Instr} (h : s.faulted = false) (hd : decode w = .ok i) :
    execute w s = exec i s := by
  simp [execute, h, hd]

/-- An unfaulted engine and a word that is no command. -/
theorem execute_illegal {s : State} {w : Word} {e : Illegal} (h : s.faulted = false) (hd : decode w = .error e) :
    execute w s = .next (s.raise w ⟨.illegalCommand, 0⟩) := by
  simp [execute, h, hd]

/-- A step serves the oldest action on the state that has the others left. -/
theorem step_serves {s : State} {a : HostAction} {rest : List HostAction} (h : s.pending = a :: rest) :
    step s = perform a (s.withPending rest) := by
  simp [step, serve, h]

theorem perform_read (space : Space) (i : Nat) (s : State) :
    perform (.read space i) s = .next (s.answered (hostRead space i s)) := rfl

theorem perform_reset (s : State) : perform .reset s = .next s.afterReset := rfl

/-- A write of `CMD` executes the word and then answers `ok`. -/
theorem perform_command (w : Word) (s : State) :
    perform (commandAction w) s = onNext (execute w s) fun t => t.answered .ok := rfl

/-- A write that is no command is stored or refused. -/
theorem perform_write {space : Space} {i : Nat} {e : Elem} (h : commandWord space i e = none) (s : State) :
    perform (.write space i e) s = .next (answerWrite space i e s) := by
  simp [perform, h]

/-- The step after `withFetchWord` executes the word. -/
theorem step_withFetchWord (s : State) (nbits w : Nat) :
    step (s.withFetchWord nbits w) = onNext (execute (tableWord nbits w) s) fun t => t.answered .ok := by
  have h : (s.withFetchWord nbits w).pending = commandAction (tableWord nbits w) :: s.pending := rfl
  rw [step_serves h]
  rfl

end Sys2Proof.Machine
end

