-- ==== Sys2Proof/Laws/HostSequences.lean ====
section
/-! SUPPORT. The small laws of the host's sequences: running a list of actions, and placing a block in a plane. -/

namespace Sys2Proof.Machine

@[simp] theorem performAll_nil (s : State) : performAll [] s = s := rfl

@[simp] theorem performAll_cons (a : HostAction) (l : List HostAction) (s : State) :
    performAll (a :: l) s = performAll l (performOne s a) := rfl

/-- A list of actions is served in its order (R93, R230). -/
theorem performAll_append (l m : List HostAction) (s : State) :
    performAll (l ++ m) s = performAll m (performAll l s) := List.foldl_append

theorem performOne_of_next {a : HostAction} {s t : State} (h : perform a s = .next t) : performOne s a = t := by
  simp [performOne, h]

@[simp] theorem performOne_read (space : Space) (i : Nat) (s : State) :
    performOne s (.read space i) = s.answered (hostRead space i s) := rfl

/-- A command of a list on an unfaulted engine is the meaning of its instruction, answered `ok` (R91, R230). -/
theorem performOne_command {w : Word} {i : Instr} {s t : State} (hf : s.faulted = false) (hd : decode w = .ok i)
    (h : exec i s = .next t) : performOne s (commandAction w) = t.answered .ok :=
  performOne_of_next (by rw [perform_command, execute_command hf hd, h]; rfl)

theorem sample8_finite {a : F64} (h : isFinite a = true) :
    sample8 a = BitVec.ofInt 8 (min 255 (max 0 (rhaz a))) := if_pos h

theorem sample8_not_finite {a : F64} (h : isFinite a = false) : sample8 a = Config.nonFiniteSample a :=
  if_neg (by simp [h])

theorem placeBlock_inside {br bc r c : Nat} (samples : List Byte) (plane : Plane) (h : r / 8 = br ∧ c / 8 = bc) :
    placeBlock br bc samples plane r c = samples.getD (8 * (r % 8) + c % 8) 0 := if_pos h

theorem placeBlock_outside {br bc r c : Nat} (samples : List Byte) (plane : Plane) (h : ¬ (r / 8 = br ∧ c / 8 = bc)) :
    placeBlock br bc samples plane r c = plane r c := if_neg h

/-- The reverse path gives a plane exactly when the decoder accepts the stream (R206, R246). -/
theorem reverseChannel_isSome (rows cols : Nat) (bytes : Memory Byte) (bitLen : Nat) (table : Memory CodeEntry)
    (s : State) :
    (reverseChannel rows cols bytes bitLen table s).isSome = (hufDecode bytes bitLen table).isSome := by
  simp [reverseChannel]

end Sys2Proof.Machine
end

