-- ==== Sys2Proof/Laws/PerInstr.lean ====
section
/-! SUPPORT. Statements for all commands, made per command: the opcode that a command's word carries (30_encoding.md R87). -/

namespace Sys2Proof.Laws.EncodeOpcode

/-- The opcode of each command (R87). -/
def opcode : Instr → Nat
  | .nop => 0x00
  | .abort => 0x01
  | .dctFwd _ _ => 0x10
  | .dctInv _ _ => 0x11
  | .qntFwd _ _ => 0x20
  | .qntInv _ _ => 0x21
  | .zzSer _ _ => 0x30
  | .zzDes _ _ => 0x31
  | .rleEnc => 0x40
  | .rleDec => 0x41
  | .hufBuild => 0x50
  | .hufPack => 0x51

/-- Bits 31:24 of a well-formed command's word are its opcode. -/
def Statement (i : Instr) : Prop := i.wellFormed = true → opField (encode i) = opcode i

theorem opField_toNat (w : Word) : opField w = w.toNat / 2 ^ 24 := by
  have h := w.isLt
  simp only [opField, BitVec.extractLsb'_toNat, Nat.shiftRight_eq_div_pow]
  omega

theorem opField_wordB {op rows cols : Nat} (ho : op < 256) (h : shapeFits rows cols = true) :
    opField (wordB op rows cols) = op := by
  simp only [shapeFits, Bool.and_eq_true, decide_eq_true_eq] at h
  rw [opField_toNat, wordB, BitVec.toNat_ofNat]
  omega

theorem opField_wordZ {op n blk : Nat} (ho : op < 256) (h : sliceFits n blk = true) :
    opField (wordZ op n blk) = op := by
  simp only [sliceFits, Bool.and_eq_true, decide_eq_true_eq] at h
  rw [opField_toNat, wordZ, BitVec.toNat_ofNat]
  omega

theorem nop : Statement .nop := fun _ => by decide
theorem abort : Statement .abort := fun _ => by decide
theorem dctFwd (rows cols : Nat) : Statement (.dctFwd rows cols) := fun h => opField_wordB (by decide) h
theorem dctInv (rows cols : Nat) : Statement (.dctInv rows cols) := fun h => opField_wordB (by decide) h
theorem qntFwd (rows cols : Nat) : Statement (.qntFwd rows cols) := fun h => opField_wordB (by decide) h
theorem qntInv (rows cols : Nat) : Statement (.qntInv rows cols) := fun h => opField_wordB (by decide) h
theorem zzSer (rows cols : Nat) : Statement (.zzSer rows cols) := fun h => opField_wordB (by decide) h
theorem zzDes (n blk : Nat) : Statement (.zzDes n blk) := fun h => opField_wordZ (by decide) h
theorem rleEnc : Statement .rleEnc := fun _ => by decide
theorem rleDec : Statement .rleDec := fun _ => by decide
theorem hufBuild : Statement .hufBuild := fun _ => by decide
theorem hufPack : Statement .hufPack := fun _ => by decide

end Sys2Proof.Laws.EncodeOpcode
end

