-- ==== Sys2Proof/Tests/Slice0.lean ====
section
/-! SUPPORT. The model's own tests. The expected results are those of spec/95_test_vectors.md and of the examples in the
command rules, named beside each test. After them, for every statement with hypotheses, a witness that meets them. -/

namespace Sys2Proof.Tests

open Sys2Proof Sys2Proof.Machine

/- One theorem after the other: elaborated side by side, each of the kernel evaluations below holds a thread, and its stack,
while it waits for those before it. -/
set_option Elab.async false

/-- The next state of an outcome. -/
def nextOf (o : Host.Outcome State Fault Refusal) : Option State :=
  match o with
  | .next s => some s
  | .fault _ => none
  | .refused _ => none

/-- The state after one command, run from `s` by the step. -/
def after (w : Word) (s : State) : Option State := nextOf (step (s.withPending [commandAction w]))

/-- A state with symbols loaded. -/
def symbolsLoaded (l : List Symbol) : State := State.reset.withSymbols (Memory.cells 0 0 l) l.length

/-- A state with a pair list loaded. -/
def pairsLoaded (l : List Word) : State := State.reset.withPairs (Memory.cells 0 0 l) l.length

/-- A state with a profile chosen. -/
def profileChosen (p : BitVec 8) : State := { State.reset with prof := p, plock := true }

/-! ## Well-formedness: each check refuses an ill-formed term -/

theorem test_rows_16_refused : (Instr.dctFwd 16 8).wellFormed = false := by decide
theorem test_cols_16_refused : (Instr.zzSer 8 16).wellFormed = false := by decide
theorem test_n_256_refused : (Instr.zzDes 256 0).wellFormed = false := by decide
theorem test_blk_65536_refused : (Instr.zzDes 64 65536).wellFormed = false := by decide

/-! ## Decoding: words written out from the fields of R81 and the opcodes of R87 -/

theorem test_decode_nop : decode 0b00000000_000000000000000000000000#32 = .ok .nop := by decide
theorem test_decode_abort : decode 0b00000001_000000000000000000000000#32 = .ok .abort := by decide
theorem test_decode_dctFwd : decode 0b00010000_1000_0111_0000000000000000#32 = .ok (.dctFwd 8 7) := by decide
theorem test_decode_dctInv : decode 0b00010001_1000_1001_0000000000000000#32 = .ok (.dctInv 8 9) := by decide
theorem test_decode_qntFwd : decode 0b00100000_0111_1000_0000000000000000#32 = .ok (.qntFwd 7 8) := by decide
theorem test_decode_qntInv : decode 0b00100001_1000_1000_0000000000000000#32 = .ok (.qntInv 8 8) := by decide
theorem test_decode_zzSer : decode 0b00110000_1111_0001_0000000000000000#32 = .ok (.zzSer 15 1) := by decide
theorem test_decode_zzDes : decode 0b00110001_01000000_1000000000000001#32 = .ok (.zzDes 64 32769) := by decide
theorem test_decode_rleEnc : decode 0b01000000_000000000000000000000000#32 = .ok .rleEnc := by decide
theorem test_decode_rleDec : decode 0b01000001_000000000000000000000000#32 = .ok .rleDec := by decide
theorem test_decode_hufBuild : decode 0b01010000_000000000000000000000000#32 = .ok .hufBuild := by decide
theorem test_decode_hufPack : decode 0b01010001_000000000000000000000000#32 = .ok .hufPack := by decide

/-- V-CTL-2. -/
theorem test_decode_illegal :
    decode 0x02000000 = .error .reservedOpcode ∧ decode 0xFFFFFFFF = .error .reservedOpcode ∧
    decode 0x00000001 = .error .mustBeZero ∧ decode 0x10880001 = .error .mustBeZero ∧
    decode 0x01800000 = .error .mustBeZero := by decide

/-- R92: the words of the three formats. -/
theorem test_encode : encode (.dctFwd 7 8) = 0x10780000 ∧ encode (.zzDes 63 9) = 0x313F0009 ∧
    encode .hufPack = 0x51000000 := by decide

theorem test_decodeTableWord : decodeTableWord 32 0x31400002 = some (.zzDes 64 2) := by decide

/-! ## Numerics -/

/-- V-Q-2: rounding corners of the quotient and of `rhaz`. -/
theorem test_quantize_corners :
    quantizeOne 0x3FDFFFFFFFFFFFFF 1 = some 0 ∧ quantizeOne 0xBFE0000000000000 1 = some (-1) ∧
    quantizeOne 0x4004000000000000 1 = some 3 ∧ quantizeOne 0x401FFFFFFFFFFFFF 16 = some 0 ∧
    quantizeOne 0x4020000000000000 16 = some 1 ∧ quantizeOne 0x40DFFFE000000000 1 = none := by decide +kernel

/-- R103, note: the floating-point product of two rounded 1/√2 is 0x3FE0000000000001. -/
theorem test_fmul_rounds : fmul 0x3FE6A09E667F3BCD 0x3FE6A09E667F3BCD = 0x3FE0000000000001 := by decide +kernel

/-- R142. -/
theorem test_zzRom : zzRom 2 = 8 ∧ zzRom 63 = 63 ∧ (zzScan 64 0 0 true).getD 35 0 = 56 := by decide +kernel

/-- V-CTL-5: `QROM[64]`, `QROM[127]`, `QROM[0]`, `COS[4]`, `COS[12]`. -/
theorem test_roms : qRom defaultParams 64 = 16 ∧ qRom defaultParams 127 = 99 ∧ qRom defaultParams 0 = 1 ∧
    cosRom 4 = 0x3FE6A09E667F3BCD ∧ cosRom 12 = 0xBFE6A09E667F3BCD := by decide +kernel

/-! ## Commands -/

/-- V-CTL-1. -/
theorem test_nop : (after 0 (profileChosen 1)).map (fun t => (t.plock, t.faulted)) = some (true, false) := by decide

/-- V-CTL-3: after the fault, `ZZ.SER` is gated, and `ABORT` clears the record and keeps `PLOCK`. -/
theorem test_gate_and_abort :
    (after 0x30880000 { profileChosen 0 with faulted := true, err := 5 }).map (fun t => (t.slen, t.err)) =
      some (0, 5) ∧
    (after 0x01000000 { profileChosen 0 with faulted := true, err := 5, tag := 9 }).map
      (fun t => (t.statusWord, t.err, t.tag)) = some (2, 0, 9) := by decide

/-- V-DCT-1. -/
theorem test_dctFwd_uniform : (nextOf (exec (.dctFwd 8 8)
    { State.reset with x := Vector.replicate 64 0x4060000000000000 })).map (fun t => blockAt t.f 0) =
      some 0x4090000000000000 := by decide +kernel

/-- V-DCT-10. -/
theorem test_dctFwd_shape : (after 0x10780000 State.reset).map
    (fun t => (t.statusWord, t.err, t.errCmd, t.errInfo)) = some (1, 1, 0x10780000, 120) := by decide

/-- V-DCT-7. -/
theorem test_dctInv_impulse : (nextOf (exec (.dctInv 8 8)
    { State.reset with f := (Vector.replicate 64 0).setIfInBounds 63 0x3FF0000000000000 })).map
      (fun t => blockAt t.x 1) = some 0xBF9BBF35A2CD45E6 := by decide +kernel

/-- R125, example: `F[0]` = 1136.0 with profile 1. -/
theorem test_qntFwd : (nextOf (exec (.qntFwd 8 8)
    { profileChosen 1 with f := (Vector.replicate 64 0).setIfInBounds 0 0x4091C00000000000 })).map
      (fun t => blockAt t.z 0) = some 71 := by decide +kernel

/-- V-Q-2, last rows, and V-Q-5. -/
theorem test_qntFwd_faults :
    (after 0x20880000 { profileChosen 0 with f := (Vector.replicate 64 0).setIfInBounds 5 0x7FF8000000000000 }).map
      (fun t => (t.err, t.errInfo)) = some (5, 5) ∧
    (after 0x20880000 State.reset).map (fun t => (t.err, t.errInfo)) = some (3, 0) ∧
    (after 0x20780000 State.reset).map (fun t => (t.err, t.errInfo)) = some (1, 120) := by decide +kernel

/-- V-Q-4: −7·11 = −77.0. -/
theorem test_qntInv : (nextOf (exec (.qntInv 8 8)
    { profileChosen 1 with z := (Vector.replicate 64 0).setIfInBounds 1 (-7) })).map
      (fun t => (blockAt t.f 0, blockAt t.f 1)) = some (0, 0xC053400000000000) := by decide +kernel

/-- V-ZZ-1. -/
theorem test_zzSer : (nextOf (exec (.zzSer 8 8)
    { State.reset with z := Vector.ofFn fun k => BitVec.ofNat 16 k })).map
      (fun t => (t.symbols.take 11, t.slen)) = some ([0, 1, 8, 16, 9, 2, 3, 10, 17, 24, 32], 64) := by decide +kernel

/-- V-ZZ-4: the last 64 free symbols, and one too few. -/
theorem test_zzSer_bounds :
    (nextOf (exec (.zzSer 8 8) { State.reset with slen := 65472 })).map (fun t => (t.slen, t.err)) =
      some (65536, 0) ∧
    (nextOf (exec (.zzSer 8 8) { State.reset with slen := 65473 })).map (fun t => (t.slen, t.err, t.errInfo)) =
      some (65473, 4, 65473) := by decide +kernel

/-- V-ZZ-2. -/
theorem test_zzDes : (nextOf (exec (.zzDes 64 0)
    (symbolsLoaded ((List.range 64).map (BitVec.ofNat 16))))).map
      (fun t => (t.z.toList.take 10)) = some [0, 1, 5, 6, 14, 15, 27, 28, 2, 4] := by decide +kernel

/-- V-ZZ-5 and V-CTL-2. -/
theorem test_zzDes_faults :
    (after 0x313F0009 State.reset).map (fun t => (t.err, t.errInfo)) = some (1, 63) ∧
    (after 0x3140FFFF State.reset).map (fun t => (t.err, t.errInfo)) = some (4, 4194240) := by decide

/-- V-RLE-1. -/
theorem test_rleEnc : (nextOf (exec .rleEnc (symbolsLoaded [5, 5, 5, -2, -2, 0, 0, 0, 0, 9]))).map
    (fun t => (t.pairWords, t.flagE)) = some ([3, 5, 2, 0xFFFFFFFE, 4, 0, 1, 9], false) := by decide +kernel

/-- V-RLE-2. -/
theorem test_rleEnc_empty : (nextOf (exec .rleEnc State.reset)).map (fun t => (t.plen, t.flagsWord)) =
    some (0, 1) := by decide

/-- V-RLE-6. -/
theorem test_rleDec : (nextOf (exec .rleDec (pairsLoaded [3, 5, 2, 0xFFFFFFFE, 4, 0, 1, 9]))).map
    (fun t => (t.symbols, t.flagE)) = some ([5, 5, 5, -2, -2, 0, 0, 0, 0, 9], false) := by decide +kernel

/-- V-RLE-7: the total is exceeded before the zero count is reached; a value outside 16 bits. -/
theorem test_rleDec_faults :
    (nextOf (exec .rleDec (pairsLoaded [65537, 5, 0, 6]))).map (fun t => (t.err, t.errInfo)) = some (4, 0) ∧
    (nextOf (exec .rleDec (pairsLoaded [3, 5, 1, 0x00008000]))).map (fun t => (t.err, t.errInfo)) =
      some (6, 3) := by decide +kernel

/-- V-HUF-4 (R195): the table of the worked example. -/
theorem test_hufBuild : (nextOf (exec .hufBuild (pairsLoaded [3, 5, 2, 0xFFFFFFFE, 4, 0, 1, 9]))).map
    (fun t => (t.nsym, t.weightOf (-2), t.codeEntryOf 0, t.codeEntryOf 5, t.codeEntryOf 9, t.codeEntryOf (-2))) =
      some (4, 2, ⟨1, 0⟩, ⟨2, 2⟩, ⟨3, 6⟩, ⟨3, 7⟩) := by decide +kernel

/-- V-HUF-2: an only symbol. -/
theorem test_hufBuild_single : (nextOf (exec .hufBuild (pairsLoaded [5, 7]))).map
    (fun t => (t.codeEntryOf 7, t.nsym, t.flagsWord)) = some (⟨1, 0⟩, 1, 2) := by decide +kernel

/-- The table of V-HUF-4. -/
def exampleTable : Memory CodeEntry := [(0, ⟨1, 0⟩), (5, ⟨2, 2⟩), (9, ⟨3, 6⟩), (65534, ⟨3, 7⟩)]

/-- V-HUF-4: the packed bytes, and the reference decoder on them. -/
theorem test_hufPack : (nextOf (exec .hufPack
    { symbolsLoaded [5, 5, 5, -2, -2, 0, 0, 0, 0, 9] with code := exampleTable })).map
      (fun t => (t.bs, t.bitLen, t.bsLen, t.flagsWord)) =
        some ([(0, 0xAB), (1, 0xF0), (2, 0xC0)], 19, 3, 4) ∧
    hufDecode [(0, 0xAB), (1, 0xF0), (2, 0xC0)] 19 exampleTable =
      some [5, 5, 5, -2, -2, 0, 0, 0, 0, 9] := by decide +kernel

/-- V-HUF-11. -/
theorem test_hufPack_missing : (nextOf (exec .hufPack
    { symbolsLoaded [0, 0, 5, 0] with code := [(0, ⟨1, 0⟩)] })).map (fun t => (t.err, t.errInfo)) =
      some (7, 2) := by decide +kernel

/-- V-CTL-2: an illegal word. -/
theorem test_illegal : (after 0x10880001 { State.reset with tag := 3 }).map
    (fun t => (t.statusWord, t.err, t.errCmd, t.errTag, t.errInfo)) = some (1, 2, 0x10880001, 3, 0) := by decide

/-! ## The port -/

/-- V-Q-6: the first accepted write of `PROF` locks it; `NPROF` = 2 refuses 2. -/
theorem test_prof :
    (hostWrite .reg 8 (.word 1) State.reset).map (fun t => (t.prof, t.statusWord)) = some (1, 2) ∧
    hostWrite .reg 8 (.word 0) (profileChosen 1) = none ∧ hostWrite .reg 8 (.word 2) State.reset = none ∧
    hostWrite .reg 8 (.word 256) State.reset = none := by decide

/-- V-ZZ-4 and V-CTL-5. -/
theorem test_port :
    hostWrite .reg 9 (.word 65537) State.reset = none ∧ hostWrite .reg 2 (.word 0) State.reset = none ∧
    hostWrite .bs 0 (.byte 0) State.reset = none ∧ hostRead .x 64 State.reset = .busErr ∧
    hostRead .reg 0 State.reset = .value (.word 0x43465307) ∧
    hostRead .zzrom 2 State.reset = .value (.position 8) := by decide

/-- The host's question: a table word runs as the first command after reset. -/
theorem test_first_command :
    (nextOf (step (State.reset.withFetchWord 32 0x10000000))).map (fun t => (t.err, t.errCmd)) =
      some (1, 0x10000000) ∧
    (nextOf (step (State.reset.withFetchWord 32 0x50000000))).map (fun t => (t.err, t.flagE)) =
      some (0, true) := by decide

/-- R241, R245. -/
theorem test_host_functions : contextTag 1 2 2 = 0x40010002 ∧ sample8 0x40706E147AE147AE = 255 ∧
    sample8 0xC00CB851EB851EB8 = 0 := by decide +kernel

/-- R246: the decoded symbols are written back with their number; `BLOCK.DEC 1` is 0x31400001 and the two inverse
commands; without a profile the block faults `NotConfigured` (R233, R264); a stream that ends inside a code is an error. -/
theorem test_reverse_path :
    ((performAll (loadSymbols [5, -2]) State.reset).symbols, (performAll (loadSymbols [5, -2]) State.reset).slen) =
      ([5, -2], 2) ∧
    (reverseBlockActions 1).take 3 = [commandAction 0x31400001, commandAction 0x21880000, commandAction 0x11880000] ∧
    (reverseBlockActions 1).length = 67 ∧
    (performAll (reverseBlockActions 0) { State.reset with slen := 64 }).err = 3 ∧
    (reverseChannel 8 8 [] 2 exampleTable State.reset).isNone = false ∧
    (reverseChannel 8 8 [(0, 0x80)] 1 exampleTable State.reset).isNone = true := by decide +kernel

/-- R239, R240, R246: what is read of `X` for the second block of a 9 by 8 plane is placed at its rows. -/
theorem test_reconstruct :
    blockOrder 9 8 = [(0, 0), (1, 0)] ∧
    (reconstruct (fun _ _ _ => readBlock) [((1, 0), 1)]
      { State.reset with x := (Vector.replicate 64 0).setIfInBounds 11 0x4060000000000000 } blankPlane).2 9 3 = 128 ∧
    (reconstruct (fun _ _ _ => readBlock) [((1, 0), 1)]
      { State.reset with x := (Vector.replicate 64 0).setIfInBounds 11 0x4060000000000000 } blankPlane).2 1 3 = 0 := by
  decide +kernel

/-! ## Witnesses: for each statement with hypotheses, concrete values that meet them together -/

/-- The next state of an outcome that is one, with any state in the place of a stop. -/
def stateOf (o : Host.Outcome State Fault Refusal) : State := (nextOf o).getD State.reset

theorem eq_next_stateOf {o : Host.Outcome State Fault Refusal} (h : (nextOf o).isSome = true) :
    o = .next (stateOf o) := by
  cases o with
  | next s => rfl
  | fault r => cases r
  | refused r => cases h

/-- The state after reset with one host action pending. -/
def onePending (a : HostAction) : State := { State.reset with pending := [a] }

/-- A faulted state with one host action pending. -/
def faultedPending (a : HostAction) : State := { onePending a with faulted := true, err := 5 }

/-- A block of zeros but for one element. -/
def oneAt (k : Nat) (v : F64) : Block F64 := (Vector.replicate 64 0).setIfInBounds k v

/-! ### Encoding and step -/

theorem witness_EncodedCommandDecodesToItself :
    (Instr.zzDes 255 65535).wellFormed = true ∧ (Instr.zzDes 0 0).wellFormed = true ∧
    (Instr.dctFwd 15 15).wellFormed = true ∧ Instr.hufPack.wellFormed = true := by decide

theorem witness_DecodedWordIsTheWordOfItsCommand :
    decode 0x31FFFFFF = .ok (.zzDes 255 65535) ∧ decode 0x30FF0000 = .ok (.zzSer 15 15) := by decide

theorem witness_StepRunsTheDecodedCommand :
    (onePending (.write .reg 1 (.word 0x50000000))).pending = .write .reg 1 (.word 0x50000000) :: [] ∧
    (onePending (.write .reg 1 (.word 0x50000000))).faulted = false ∧ decode 0x50000000 = .ok .hufBuild := by decide

theorem witness_IllegalWordTakesIllegalCommand :
    (onePending (.write .reg 1 (.word 0x01800000))).pending = .write .reg 1 (.word 0x01800000) :: [] ∧
    (onePending (.write .reg 1 (.word 0x01800000))).faulted = false ∧
    decode 0x01800000 = .error .mustBeZero := by decide

theorem witness_FaultedEngineRunsOnlyAbort :
    (faultedPending (.write .reg 1 (.word 0x01000001))).pending = .write .reg 1 (.word 0x01000001) :: [] ∧
    (faultedPending (.write .reg 1 (.word 0x01000001))).faulted = true ∧ (0x01000001 : Word) ≠ 0x01000000 ∧
    (faultedPending (.write .reg 1 (.word 0x01000000))).pending = .write .reg 1 (.word 0x01000000) :: [] ∧
    (faultedPending (.write .reg 1 (.word 0x01000000))).faulted = true := by decide

theorem witness_IdleEngineDoesNothing : (profileChosen 1).pending = [] := by decide

theorem witness_ResetSetsRegistersAndTables :
    ({ profileChosen 1 with pending := [.reset] } : State).pending = .reset :: [] := by decide

theorem witness_OnlyResetUnlocksTheProfile :
    ∃ t, step { profileChosen 1 with pending := [.write .reg 8 (.word 0)] } = .next t ∧
      ({ profileChosen 1 with pending := [.write .reg 8 (.word 0)] } : State).plock = true :=
  ⟨_, eq_next_stateOf (by decide), by decide⟩

theorem witness_FaultRecordStaysUntilAbortOrReset :
    ∃ t, step (faultedPending (.write .reg 7 (.word 1))) = .next t ∧
      (faultedPending (.write .reg 7 (.word 1))).faulted = true :=
  ⟨_, eq_next_stateOf (by decide), by decide⟩

theorem witness_FaultsArePreciseAndListed :
    ∃ t, State.reset.faulted = false ∧ exec (.dctFwd 7 8) State.reset = .next t ∧ t.faulted = true :=
  ⟨_, by decide, eq_next_stateOf (by decide), by decide⟩

/-! ### The port -/

theorem witness_HostReadHasNoSideEffect :
    (onePending (.read .x 63)).pending = .read .x 63 :: [] ∧ 63 < (onePending (.read .x 63)).size .x ∧
    (onePending (.read .x 64)).pending = .read .x 64 :: [] ∧ (onePending (.read .x 64)).size .x ≤ 64 := by decide

theorem witness_HostReadHasNoSideEffect_catalog : 1 < State.reset.params.qcat.length ∧ 63 < 64 := by decide

theorem witness_HostWriteIsRefusedExactlyAsListed :
    (onePending (.write .s 65535 (.symbol 7))).pending = .write .s 65535 (.symbol 7) :: [] ∧
    (Elem.symbol 7).ofSpace .s = true ∧ ¬ (Space.s = .reg ∧ 65535 = 1) ∧
    ¬ RefusedWrite (onePending (.write .s 65535 (.symbol 7))) .s 65535 (.symbol 7) := by
  refine ⟨by decide, by decide, by decide, ?_⟩
  simp [RefusedWrite, State.size, onePending, State.reset, State.powerOn, defaultParams, Config.defaultSMax]

theorem witness_refused_writes :
    RefusedWrite State.reset .x 64 (.float 0) ∧ RefusedWrite State.reset .bs 0 (.byte 0) ∧
    RefusedWrite State.reset .reg 17 (.word 2) ∧ RefusedWrite (profileChosen 1) .reg 8 (.word 0) ∧
    RefusedWrite State.reset .reg 8 (.word 256) ∧ RefusedWrite State.reset .reg 8 (.word 2) ∧
    RefusedWrite State.reset .reg 9 (.word 65537) ∧ RefusedWrite State.reset .reg 10 (.word 131073) :=
  ⟨.inl (by decide), .inr (.inl (by decide)), .inr (.inr (.inl (by decide))),
    .inr (.inr (.inr (.inl ⟨rfl, rfl, 0, rfl, .inl rfl⟩))),
    .inr (.inr (.inr (.inl ⟨rfl, rfl, 256, rfl, .inr (.inl (by decide))⟩))),
    .inr (.inr (.inr (.inl ⟨rfl, rfl, 2, rfl, .inr (.inr (by decide))⟩))),
    .inr (.inr (.inr (.inr (.inl ⟨rfl, rfl, 65537, rfl, by decide⟩)))),
    .inr (.inr (.inr (.inr (.inr ⟨rfl, rfl, 131073, rfl, by decide⟩))))⟩

theorem witness_accepted_writes :
    (hostWrite .reg 9 (.word 65536) State.reset).isSome = true ∧
    (hostWrite .reg 10 (.word 131072) State.reset).isSome = true ∧
    (hostWrite .reg 8 (.word 1) State.reset).isSome = true := by decide

theorem witness_HostWriteStoresOneElement :
    Space.s ≠ .reg ∧ ∃ t, hostWrite .s 65535 (.symbol 7) State.reset = some t := ⟨by decide, _, rfl⟩

/-! ### Invariants -/

/-- A state with a profile chosen, lengths at their limits, a table of one symbol, and a command pending. -/
def busyState : State :=
  { profileChosen 1 with
    slen := 65536, plen := 131072, nsym := 1, sBuf := [(65535, 7)], pBuf := [(131071, 5)], bs := [(0, 128)]
    freq := [(5, 3)], code := [(5, ⟨1, 0⟩)], bitLen := 1, bsLen := 1, pending := [commandAction 0] }

theorem busyState_steps : step busyState = .next (stateOf (step busyState)) := eq_next_stateOf (by decide)

theorem defaultEntries_positive : ∀ q ∈ busyState.params.qcat, ∀ k, k < 64 → 1 ≤ (blockAt q k).toNat := by
  have h : busyState.params.qcat.all (fun q => (List.range 64).all fun k => Nat.ble 1 (blockAt q k).toNat) = true := by
    decide +kernel
  intro q hq k hk
  exact Nat.le_of_ble_eq_true (List.all_eq_true.mp (List.all_eq_true.mp h q hq) k (List.mem_range.mpr hk))

theorem witness_StepKeepsRegisterRanges : RegisterRanges busyState ∧ ∃ t, step busyState = .next t :=
  ⟨{ params := ⟨by decide, by decide, by decide, by decide, by decide, defaultEntries_positive, by decide,
        by decide⟩
     slen := by decide, plen := by decide, bitLen := by decide, bsLen := by decide, nsym := by decide, prof := by decide
     err := by decide, faulted := by decide, codeLen := by decide }, _, busyState_steps⟩

theorem witness_StepKeepsBuffersCanonical : BuffersCanonical busyState :=
  ⟨by decide, by decide, by decide, by decide, by decide⟩

theorem witness_StepKeepsCodeTableSound : CodeTableSound busyState where
  freqCanonical := by decide
  codeCanonical := by decide
  nsymFreq := by
    have h : ((Finset.range 65536).filter fun i => Memory.read 0 busyState.freq i ≠ 0) = {5} := by
      ext i
      have hr : Memory.read 0 busyState.freq i = if 5 = i then 3 else 0 := by
        simp [busyState, Memory.read_cons, Memory.read_nil]
      rw [Finset.mem_filter, hr]
      by_cases h5 : 5 = i
      · subst h5; simp
      · simp [h5, Ne.symm h5]
    exact congrArg Finset.card h
  nsymCode := by
    have h : ((Finset.range 65536).filter fun i =>
        (Memory.read CodeEntry.empty busyState.code i).len ≠ 0) = {5} := by
      ext i
      have hr : Memory.read CodeEntry.empty busyState.code i = if 5 = i then ⟨1, 0⟩ else CodeEntry.empty := by
        simp [busyState, Memory.read_cons, Memory.read_nil]
      rw [Finset.mem_filter, hr]
      by_cases h5 : 5 = i
      · subst h5; simp
      · simp [h5, Ne.symm h5, CodeEntry.empty]
    exact congrArg Finset.card h
  entry := by decide
  prefixFree := by decide

/-! ### Shape and profile -/

theorem witness_WrongShapeTakesDimensionMismatch :
    (15 < 16 ∧ 15 < 16 ∧ ¬ (15 = 8 ∧ 15 = 8)) ∧ 63 < 256 ∧ 65535 < 65536 ∧ 63 ≠ 64 := by decide

theorem witness_QuantizerWithoutProfileFaults : State.reset.plock = false := by decide

/-! ### Numerics: an overflow and a tie for each operation -/

theorem witness_SumRoundsOnceToNearestEven :
    (isFinite 0x7FEFFFFFFFFFFFFF = true ∧ isFinite (fadd 0x7FEFFFFFFFFFFFFF 0x7FEFFFFFFFFFFFFF) = false) ∧
    isFinite 0x3FF0000000000000 = true ∧ isFinite 0x3CA0000000000000 = true ∧
    isFinite (fadd 0x3FF0000000000000 0x3CA0000000000000) = true ∧ isFinite 0x3FF0000000000001 = true ∧
    |scaledReal (fadd 0x3FF0000000000000 0x3CA0000000000000) -
        (scaledReal 0x3FF0000000000000 + scaledReal 0x3CA0000000000000)| =
      |scaledReal 0x3FF0000000000001 - (scaledReal 0x3FF0000000000000 + scaledReal 0x3CA0000000000000)| := by
  decide +kernel

theorem witness_ProductRoundsOnceToNearestEven :
    (isFinite 0x7FEFFFFFFFFFFFFF = true ∧ isFinite (fmul 0x7FEFFFFFFFFFFFFF 0x7FEFFFFFFFFFFFFF) = false) ∧
    isFinite 0x3FF0000000000001 = true ∧ isFinite 0x3FF8000000000000 = true ∧
    isFinite (fmul 0x3FF0000000000001 0x3FF8000000000000) = true ∧ isFinite 0x3FF8000000000001 = true ∧
    |scaledReal (fmul 0x3FF0000000000001 0x3FF8000000000000) * 2 ^ 1075 -
        scaledReal 0x3FF0000000000001 * scaledReal 0x3FF8000000000000| =
      |scaledReal 0x3FF8000000000001 * 2 ^ 1075 -
        scaledReal 0x3FF0000000000001 * scaledReal 0x3FF8000000000000| := by
  decide +kernel

theorem witness_QuotientRoundsOnceToNearestEven :
    (isFinite 0x7FEFFFFFFFFFFFFF = true ∧ isFinite 0x3FE0000000000000 = true ∧
      scaledReal 0x3FE0000000000000 ≠ 0 ∧ isFinite (fdiv 0x7FEFFFFFFFFFFFFF 0x3FE0000000000000) = false) ∧
    isFinite 0x0000000000000001 = true ∧ isFinite 0x4000000000000000 = true ∧ scaledReal 0x4000000000000000 ≠ 0 ∧
    isFinite (fdiv 0x0000000000000001 0x4000000000000000) = true ∧
    |scaledReal (fdiv 0x0000000000000001 0x4000000000000000) * scaledReal 0x4000000000000000 -
        scaledReal 0x0000000000000001 * 2 ^ 1075| =
      |scaledReal 0x0000000000000001 * scaledReal 0x4000000000000000 -
        scaledReal 0x0000000000000001 * 2 ^ 1075| := by
  decide +kernel

/-- For the clauses on exact zeros, zero divisors and NaN operands of the three operations. -/
theorem witness_special_operands :
    (isFinite 0x8000000000000000 = true ∧ scaledReal 0x8000000000000000 + scaledReal 0x8000000000000000 = 0) ∧
    (isFinite 0x0000000000000001 = true ∧ scaledReal 0x0000000000000001 + scaledReal 0x0000000000000001 ≠ 0 ∧
      scaledReal 0x0000000000000001 ≠ 0) ∧
    scaledReal 0x8000000000000000 = 0 ∧ isNaN 0xFFF0000000000001 = true := by decide +kernel

theorem witness_RhazRoundsHalfAwayFromZero :
    isFinite 0x3FE0000000000000 = true ∧ 0 ≤ scaledReal 0x3FE0000000000000 ∧
    isFinite 0xBFE0000000000000 = true ∧ scaledReal 0xBFE0000000000000 < 0 ∧
    2 * |rhaz 0xBFE0000000000000 * 2 ^ 1075 - scaledReal 0xBFE0000000000000| = 2 ^ 1075 := by
  decide +kernel

theorem witness_OfIntIsExact : |(2 : Int) ^ 53| ≤ 2 ^ 53 ∧ |-(2 : Int) ^ 53| ≤ 2 ^ 53 := by decide

theorem witness_BasisTablesAreNearest : 7 < 8 ∧ isFinite 0x3FF0000000000000 = true := by decide +kernel

/-! ### BlockTransform -/

/-- The running sum of R107 for the coefficient `(u, v)`. -/
def fwdSum (x : Block F64) (u v : Nat) : Nat → F64
  | 0 => fZero
  | n + 1 => fadd (fwdSum x u v n)
      (fmul (fmul (cosRom (8 * (n / 8) + u)) (cosRom (8 * (n % 8) + v))) (blockAt x n))

theorem witness_DctFwdComputesTheStatedSums :
    fwdSum (oneAt 63 0x7FF8000000000000) 7 7 0 = fZero ∧
    (∀ n, n < 64 → fwdSum (oneAt 63 fOne) 7 7 (n + 1) = fadd (fwdSum (oneAt 63 fOne) 7 7 n)
      (fmul (fmul (cosRom (8 * (n / 8) + 7)) (cosRom (8 * (n % 8) + 7))) (blockAt (oneAt 63 fOne) n))) ∧
    isNaN (fmul (fmul fQuarter (coefRom (8 * 7 + 7))) (fwdSum (oneAt 63 fOne) 7 7 64)) = false ∧
    isNaN (fmul (fmul fQuarter (coefRom (8 * 7 + 7))) (fwdSum (oneAt 63 0x7FF8000000000000) 7 7 64)) = true :=
  ⟨rfl, fun _ _ => rfl, by decide +kernel, by decide +kernel⟩

/-- The running sum of R108 for the sample `(i, j)`. -/
def invSum (f : Block F64) (i j : Nat) : Nat → F64
  | 0 => fZero
  | n + 1 => fadd (invSum f i j n)
      (fmul (fmul (fmul (coefRom n) (cosRom (8 * i + n / 8))) (cosRom (8 * j + n % 8))) (blockAt f n))

theorem witness_DctInvComputesTheStatedSums :
    invSum (oneAt 63 0x7FF8000000000000) 7 7 0 = fZero ∧
    (∀ n, n < 64 → invSum (oneAt 63 fOne) 7 7 (n + 1) = fadd (invSum (oneAt 63 fOne) 7 7 n)
      (fmul (fmul (fmul (coefRom n) (cosRom (8 * 7 + n / 8))) (cosRom (8 * 7 + n % 8)))
        (blockAt (oneAt 63 fOne) n))) ∧
    isNaN (fmul fQuarter (invSum (oneAt 63 fOne) 7 7 64)) = false ∧
    isNaN (fmul fQuarter (invSum (oneAt 63 0x7FF8000000000000) 7 7 64)) = true :=
  ⟨rfl, fun _ _ => rfl, by decide +kernel, by decide +kernel⟩

theorem witness_NaNInputMakesAllOutputsNaN :
    63 < 64 ∧ isNaN (blockAt ({ State.reset with x := oneAt 63 0x7FF8000000000000 } : State).x 63) = true ∧
    isNaN (blockAt ({ State.reset with f := oneAt 0 0xFFF0000000000001 } : State).f 0) = true ∧
    isFinite (blockAt ({ State.reset with x := oneAt 63 0x7FF0000000000000 } : State).x 63) = false ∧
    isFinite (blockAt ({ State.reset with f := oneAt 0 0xFFF0000000000000 } : State).f 0) = false := by decide +kernel

theorem witness_UniformBlockHasExactDc : |(2 : Int) ^ 46| ≤ 2 ^ 46 ∧
    ∀ k, k < 64 → blockAt ({ State.reset with x := Vector.replicate 64 (ofInt (2 ^ 46)) } : State).x k =
      ofInt (2 ^ 46) := by decide +kernel

theorem witness_DcOnlyBlockInvertsToItsEighth :
    isFinite (blockAt ({ State.reset with f := oneAt 0 0x4090000000000000 } : State).f 0) = true ∧
    (isFinite 0x4060000000000000 = true ∧ 8 * scaledReal 0x4060000000000000 =
      scaledReal (blockAt ({ State.reset with f := oneAt 0 0x4090000000000000 } : State).f 0)) ∧
    ∀ k, k < 64 → 1 ≤ k →
      blockAt ({ State.reset with f := oneAt 0 0x4090000000000000 } : State).f k = fZero := by decide +kernel

theorem witness_TransformRoundTripIsWithinTolerance : ∀ k, k < 64 → ∃ n : Nat, n ≤ 255 ∧
    blockAt ({ State.reset with x := Vector.replicate 64 (ofInt 255) } : State).x k = ofInt n := by
  have h : ∀ k, k < 64 →
      blockAt ({ State.reset with x := Vector.replicate 64 (ofInt 255) } : State).x k = ofInt 255 := by
    decide +kernel
  exact fun k hk => ⟨255, le_refl _, h k hk⟩

/-! ### Quantizer -/

/-- A coefficient block with 32767.0 first and −32768.0 last. -/
def edgeBlock : Block F64 := (oneAt 0 0x40DFFFC000000000).setIfInBounds 63 0xC0E0000000000000

/-- Profile 0, with a block. -/
def quantState (f : Block F64) : State := { profileChosen 0 with f := f }

theorem witness_QntFwdQuantizesInRange : (quantState edgeBlock).plock = true ∧
    ∀ k, k < 64 →
      isFinite (fdiv (blockAt (quantState edgeBlock).f k) (ofInt ((quantState edgeBlock).profileEntry k))) = true ∧
      -32768 ≤ rhaz (fdiv (blockAt (quantState edgeBlock).f k) (ofInt ((quantState edgeBlock).profileEntry k))) ∧
      rhaz (fdiv (blockAt (quantState edgeBlock).f k) (ofInt ((quantState edgeBlock).profileEntry k))) ≤ 32767 := by
  decide +kernel

theorem witness_QntFwdFaultsAtLowestBadCoefficient :
    (quantState (oneAt 63 0x7FF0000000000000)).plock = true ∧
    (∀ j, j < 63 →
      isFinite (fdiv (blockAt (quantState (oneAt 63 0x7FF0000000000000)).f j)
        (ofInt ((quantState (oneAt 63 0x7FF0000000000000)).profileEntry j))) = true ∧
      rhaz (fdiv (blockAt (quantState (oneAt 63 0x7FF0000000000000)).f j)
        (ofInt ((quantState (oneAt 63 0x7FF0000000000000)).profileEntry j))) = 0) ∧
    isFinite (fdiv (blockAt (quantState (oneAt 63 0x7FF0000000000000)).f 63)
      (ofInt ((quantState (oneAt 63 0x7FF0000000000000)).profileEntry 63))) = false ∧
    rhaz (fdiv (blockAt (quantState (oneAt 0 0xC0E0002000000000)).f 0)
      (ofInt ((quantState (oneAt 0 0xC0E0002000000000)).profileEntry 0))) < -32768 ∧
    32767 < rhaz (fdiv (blockAt (quantState (oneAt 0 0x40E0000000000000)).f 0)
      (ofInt ((quantState (oneAt 0 0x40E0000000000000)).profileEntry 0))) := by decide +kernel

theorem witness_QntInvMultipliesExactly : (profileChosen 1).plock = true ∧
    blockAt (profileChosen 1).z 63 = 0 := by decide

theorem witness_QuantizeDequantizeErrorIsBounded : ∃ t u, (quantState edgeBlock).faulted = false ∧
    exec (.qntFwd 8 8) (quantState edgeBlock) = .next t ∧ t.faulted = false ∧ exec (.qntInv 8 8) t = .next u ∧
    (quantState edgeBlock).profileEntry 63 = 1 :=
  ⟨_, _, by decide, eq_next_stateOf (by decide +kernel), by decide +kernel, eq_next_stateOf (by decide +kernel),
    by decide +kernel⟩

/-! ### ZigZag -/

/-- The state after reset with a symbol count. -/
def withCount (n : BitVec 23) : State := { State.reset with slen := n }

theorem witness_ZzSerAppendsTheBlock :
    (withCount 65472).params.smax ≤ 2 ^ 22 ∧ (withCount 65472).slen.toNat + 64 ≤ (withCount 65472).params.smax := by
  decide

theorem witness_ZzDesRebuildsTheBlock : 64 * 65535 + 64 ≤ (withCount 4194304).slen.toNat := by decide

theorem witness_ZigZagOutOfBoundsTakesSeqBounds :
    (withCount 65473).params.smax < (withCount 65473).slen.toNat + 64 ∧
    65535 < 65536 ∧ (withCount 4194303).slen.toNat < 64 * 65535 + 64 := by decide

theorem witness_ZigZagRoundTrip :
    (withCount 65472).params.smax ≤ 2 ^ 22 ∧ (withCount 65472).slen.toNat + 64 ≤ (withCount 65472).params.smax ∧
    (withCount 65472).slen.toNat = 64 * 1023 ∧ 64 * 1022 + 64 ≤ (withCount 65472).slen.toNat := by decide

/-! ### Run-length coder -/

theorem wellFormedPairs_of_lt {words : List Word} (h0 : words.length % 2 = 0)
    (h : ∀ k, k < words.length / 2 → GoodPair words k) : WellFormedPairs words :=
  ⟨h0, fun k hk => h k (by omega)⟩

theorem witness_RleDecExpandsThePairs :
    (pairsLoaded [65536, 5]).params.smax ≤ 2 ^ 22 ∧ WellFormedPairs (pairsLoaded [65536, 5]).pairWords ∧
    totalOfPairs (pairsLoaded [65536, 5]).pairWords ((pairsLoaded [65536, 5]).pairWords.length / 2) ≤
      (pairsLoaded [65536, 5]).params.smax :=
  ⟨by decide, wellFormedPairs_of_lt (by decide) (by unfold GoodPair; decide), by decide⟩

theorem witness_PairScanReportsTheFirstFailure_odd : (pairsLoaded [3]).pairWords.length % 2 = 1 := by decide

theorem witness_PairScanReportsTheFirstFailure_pair :
    (pairsLoaded [65536, 5, 0, 6]).pairWords.length % 2 = 0 ∧ 2 * 1 + 1 < (pairsLoaded [65536, 5, 0, 6]).pairWords.length ∧
    (∀ j, j < 1 → GoodPair (pairsLoaded [65536, 5, 0, 6]).pairWords j) ∧
    totalOfPairs (pairsLoaded [65536, 5, 0, 6]).pairWords 1 ≤ (pairsLoaded [65536, 5, 0, 6]).params.smax ∧
    ¬ GoodPair (pairsLoaded [65536, 5, 0, 6]).pairWords 1 := by unfold GoodPair; decide

theorem witness_PairScanReportsTheFirstFailure_value :
    2 * 0 + 1 < (pairsLoaded [3, 0x8000]).pairWords.length ∧ ¬ GoodPair (pairsLoaded [3, 0x8000]).pairWords 0 := by
  unfold GoodPair; decide

theorem witness_PairScanReportsTheFirstFailure_total :
    (pairsLoaded [65536, 5, 1, 6]).pairWords.length % 2 = 0 ∧ 2 * 1 + 1 < (pairsLoaded [65536, 5, 1, 6]).pairWords.length ∧
    (∀ j, j < 1 → GoodPair (pairsLoaded [65536, 5, 1, 6]).pairWords j) ∧
    totalOfPairs (pairsLoaded [65536, 5, 1, 6]).pairWords 1 ≤ (pairsLoaded [65536, 5, 1, 6]).params.smax ∧
    GoodPair (pairsLoaded [65536, 5, 1, 6]).pairWords 1 ∧
    (pairsLoaded [65536, 5, 1, 6]).params.smax < totalOfPairs (pairsLoaded [65536, 5, 1, 6]).pairWords (1 + 1) := by
  unfold GoodPair; decide

theorem witness_RleRoundTrip :
    (withCount 65536).params.smax ≤ 2 ^ 22 ∧ (withCount 65536).slen.toNat ≤ (withCount 65536).params.smax := by decide

/-! ### Huffman coder -/

theorem witness_HufBuildWritesWeightsAndCodes :
    WellFormedPairs (pairsLoaded [5, 7]).pairWords ∧
    ∀ v : Symbol, (codeString (pairCodes (pairsOfWords (pairsLoaded [5, 7]).pairWords)) v).length ≤ 32 := by
  refine ⟨wellFormedPairs_of_lt (by decide) (by unfold GoodPair; decide), fun v => ?_⟩
  have h : pairCodes (pairsOfWords (pairsLoaded [5, 7]).pairWords) = [(7, [false])] := by decide
  rw [h]
  by_cases hv : 7#16 = v
  · subst hv; decide
  · simp [codeString, hv]

theorem witness_TreeMergesTheLowestNodes :
    hufTree (symbolWeight [(3, 5), (2, -2)]) [-2, 5] =
      some (.node 5 2 (.leaf (-2) 2 0) (.leaf 5 3 1)) := by decide

theorem witness_HuffmanCodesArePrefixFreeAndComplete : 2 ≤ (distinctSymbols [(3, 5), (2, -2)]).length := by decide

/-- 34 counts, each no less than the sum of all before it but one, so that the two lowest symbols get 33 bits. -/
def longCounts : List Nat :=
  [1, 1, 1, 3, 4, 7, 11, 18, 29, 47, 76, 123, 199, 322, 521, 843, 1364] ++
  [2207, 3571, 5778, 9349, 15127, 24476, 39603, 64079, 103682, 167761, 271443, 439204, 710647, 1149851] ++
  [1860498, 3010349, 4870847]

/-- The words of the 34 pairs, with the symbols 0, 1, …, 33. -/
def longWords : List Word := longCounts.zipIdx.flatMap fun c => [BitVec.ofNat 32 c.1, BitVec.ofNat 32 c.2]

theorem witness_HufBuildFaultsOnTooLongCode :
    WellFormedPairs (pairsLoaded longWords).pairWords ∧
    32 < (codeString (pairCodes (pairsOfWords (pairsLoaded longWords).pairWords)) 0).length ∧
    ∀ u : Symbol, u.toInt < (0 : Symbol).toInt →
      (codeString (pairCodes (pairsOfWords (pairsLoaded longWords).pairWords)) u).length ≤ 32 := by
  refine ⟨wellFormedPairs_of_lt (by decide +kernel) (by unfold GoodPair; decide +kernel), by decide +kernel,
    fun u hu => ?_⟩
  have h : ∀ c ∈ pairCodes (pairsOfWords (pairsLoaded longWords).pairWords), 0 ≤ c.1.toInt := by decide +kernel
  unfold codeString
  split
  · rename_i c hc
    have h1 := h c (List.mem_of_find?_eq_some hc)
    have h2 : c.1 = u := by simpa using List.find?_some hc
    have h3 : (0 : Symbol).toInt = 0 := by decide
    rw [h2] at h1
    omega
  · simp

/-- The state of V-HUF-4 before `HUF.PACK`. -/
def codedState : State := { symbolsLoaded [5, 5, 5, -2, -2, 0, 0, 0, 0, 9] with code := exampleTable }

theorem witness_HufPackPacksTheCodeBits : ∀ v ∈ codedState.symbols, (codedState.codeEntryOf v).len ≠ 0 := by
  have h : codedState.symbols.all (fun v => decide ((codedState.codeEntryOf v).len ≠ 0)) = true := by
    decide +kernel
  intro v hv
  simpa using List.all_eq_true.mp h v hv

theorem witness_HufPackFaultsAtFirstMissingCode :
    2 < (symbolsLoaded [0, 0, 5, 0]).slen.toNat ∧
    (∀ j, j < 2 → (({ symbolsLoaded [0, 0, 5, 0] with code := [(0, ⟨1, 0⟩)] } : State).codeEntryOf
      ((symbolsLoaded [0, 0, 5, 0]).symbolAt j)).len ≠ 0) ∧
    (({ symbolsLoaded [0, 0, 5, 0] with code := [(0, ⟨1, 0⟩)] } : State).codeEntryOf
      ((symbolsLoaded [0, 0, 5, 0]).symbolAt 2)).len = 0 := by decide

theorem witness_DecoderInvertsThePacker : ∃ t u,
    (pairsLoaded [3, 5, 2, 0xFFFFFFFE, 4, 0, 1, 9]).faulted = false ∧
    exec .hufBuild (pairsLoaded [3, 5, 2, 0xFFFFFFFE, 4, 0, 1, 9]) = .next t ∧ t.faulted = false ∧
    codedState.code = t.code ∧ codedState.faulted = false ∧ exec .hufPack codedState = .next u ∧
    u.faulted = false :=
  ⟨_, _, by decide, eq_next_stateOf (by decide +kernel), by decide +kernel, by decide +kernel, by decide,
    eq_next_stateOf (by decide +kernel), by decide +kernel⟩

theorem witness_HufEncodeNeverFaultsAndDecodes :
    (withCount 4194304).faulted = false ∧ (withCount 4194304).slen.toNat ≤ 2 ^ 22 := by decide

end Sys2Proof.Tests
end

section
/-! PROOF. The idle engine (00_scope.md R7). -/

namespace Sys2Proof.Machine

theorem step_idle {s : State} (h : s.pending = []) : step s = .next s := by
  simp [step, serve, h]

/-- Settles O8: with an empty queue the step serves nothing. -/
theorem idleEngineDoesNothing : Obligations.IdleEngineDoesNothing := fun _ h => step_idle h

end Sys2Proof.Machine
end

section
/-! PROOF. A datum as a sign over a magnitude pattern: its parts, its exact value, and that the values of the magnitude
patterns rise with the pattern, one last-bit weight at a time inside a binade (00_scope.md R9). -/

namespace Sys2Proof.Machine

theorem toNat_withSign (neg : Bool) {p : Nat} (h : p < 2 ^ 63) :
    (withSign neg p).toNat = (if neg then 2 ^ 63 else 0) + p := by
  cases neg <;> simp [withSign] <;> omega

theorem getLsbD_sign_withSign (neg : Bool) {p : Nat} (h : p < 2 ^ 63) : (withSign neg p).getLsbD 63 = neg := by
  rw [← BitVec.testBit_toNat, toNat_withSign neg h, Nat.testBit_eq_decide_div_mod_eq]
  cases neg <;> simp <;> omega

theorem getLsbD_zero_withSign (neg : Bool) {p : Nat} (h : p < 2 ^ 63) :
    (withSign neg p).getLsbD 0 = decide (p % 2 = 1) := by
  rw [← BitVec.testBit_toNat, toNat_withSign neg h, Nat.testBit_zero]
  cases neg <;> simp
  omega

/-- Every pattern is its sign bit over the other 63 bits. -/
theorem withSign_sign_magnitude (a : F64) : withSign (a.getLsbD 63) (a.toNat % 2 ^ 63) = a := by
  have hsign : a.getLsbD 63 = decide (a.toNat / 2 ^ 63 % 2 = 1) := by
    rw [← BitVec.testBit_toNat, Nat.testBit_eq_decide_div_mod_eq]
  apply BitVec.eq_of_toNat_eq
  rw [toNat_withSign _ (Nat.mod_lt _ (by decide)), hsign]
  have := a.isLt
  by_cases h : a.toNat / 2 ^ 63 % 2 = 1 <;> simp only [h, decide_true, decide_false] <;> simp <;> omega

/-- The significand of a magnitude pattern: the implicit leading bit is there unless the exponent field is 0. -/
def significand (p : Nat) : Nat := if p / 2 ^ 52 = 0 then p % 2 ^ 52 else p % 2 ^ 52 + 2 ^ 52

/-- The exponent of a magnitude pattern; that of the subnormals is 1. -/
def exponent (p : Nat) : Nat := max (p / 2 ^ 52) 1

/-- The scaled value of a magnitude pattern, with the exponent field unbounded above. -/
def magnitude (p : Nat) : Nat := significand p * 2 ^ exponent p

theorem significand_lt (p : Nat) : significand p < 2 ^ 53 := by
  unfold significand
  split <;> omega

theorem datum_withSign (neg : Bool) {p : Nat} (h : p < 2047 * 2 ^ 52) :
    datum (withSign neg p) = .fin neg (significand p) (exponent p) := by
  have hlt : p < 2 ^ 63 := by omega
  have hexp : (withSign neg p).toNat / 2 ^ 52 % 2048 = p / 2 ^ 52 := by
    rw [toNat_withSign neg hlt]
    cases neg <;> simp <;> omega
  have hfrac : (withSign neg p).toNat % 2 ^ 52 = p % 2 ^ 52 := by
    rw [toNat_withSign neg hlt]
    cases neg <;> simp
    omega
  have hne : p / 2 ^ 52 ≠ 2047 := by omega
  simp only [datum, hexp, hfrac, getLsbD_sign_withSign neg hlt, hne, if_false, significand, exponent]
  split
  · rw [max_eq_right (by omega)]
  · rw [max_eq_left (by omega)]

theorem datum_infinity (neg : Bool) : datum (infinity neg) = .inf neg := by
  cases neg <;> decide +kernel

theorem datum_innerNaN : datum innerNaN = .nan := by decide +kernel

theorem isFinite_of_datum_fin {a : F64} {neg : Bool} {m e : Nat} (h : datum a = .fin neg m e) : isFinite a = true := by
  simp [isFinite, h]

theorem isFinite_of_datum_inf {a : F64} {neg : Bool} (h : datum a = .inf neg) : isFinite a = false := by
  simp [isFinite, h]

theorem isNaN_of_datum_nan {a : F64} (h : datum a = .nan) : isNaN a = true := by
  simp [isNaN, h]

theorem isFinite_withSign (neg : Bool) {p : Nat} (h : p < 2047 * 2 ^ 52) : isFinite (withSign neg p) = true :=
  isFinite_of_datum_fin (datum_withSign neg h)

theorem isFinite_infinity (neg : Bool) : isFinite (infinity neg) = false :=
  isFinite_of_datum_inf (datum_infinity neg)

theorem isNaN_innerNaN : isNaN innerNaN = true := isNaN_of_datum_nan datum_innerNaN

theorem datum_of_isNaN {a : F64} (h : isNaN a = true) : datum a = .nan := by
  unfold isNaN at h
  split at h <;> simp_all

/-- The sign applied to a magnitude. -/
def signed (neg : Bool) (x : ℚ) : ℚ := if neg then -x else x

theorem abs_signed_sub (neg : Bool) (x y : ℚ) : |signed neg x - signed neg y| = |x - y| := by
  cases neg
  · rfl
  · simp only [signed, if_true]
    rw [neg_sub_neg, abs_sub_comm]

theorem abs_signed (neg : Bool) {x : ℚ} (hx : 0 ≤ x) : |signed neg x| = x := by
  cases neg <;> simp [signed, abs_of_nonneg hx]

theorem signed_not (neg : Bool) (x : ℚ) : signed (!neg) x = signed neg (-x) := by
  cases neg <;> simp [signed]

theorem signed_mul (s t : Bool) (x y : ℚ) : signed s x * signed t y = signed (s != t) (x * y) := by
  cases s <;> cases t <;> simp [signed]

theorem signed_lt_zero_abs (n : Int) : signed (decide (n < 0)) |(n : ℚ)| = n := by
  obtain hn | hn := lt_or_ge n 0
  · have : (n : ℚ) < 0 := by exact_mod_cast hn
    simp [signed, hn, abs_of_neg this]
  · have : (0 : ℚ) ≤ n := by exact_mod_cast hn
    simp [signed, not_lt.mpr hn, abs_of_nonneg this]

theorem signed_mul_right (neg : Bool) (x y : ℚ) : signed neg x * y = signed neg (x * y) := by
  cases neg <;> simp [signed]

theorem scaledReal_withSign (neg : Bool) {p : Nat} (h : p < 2047 * 2 ^ 52) :
    (scaledReal (withSign neg p) : ℚ) = signed neg (magnitude p) := by
  cases neg <;> simp [scaledReal, datum_withSign _ h, signed, magnitude]

theorem exists_withSign_of_isFinite {a : F64} (h : isFinite a = true) :
    ∃ p, p < 2047 * 2 ^ 52 ∧ a = withSign (a.getLsbD 63) p := by
  refine ⟨a.toNat % 2 ^ 63, ?_, (withSign_sign_magnitude a).symm⟩
  by_contra hp
  have hexp : a.toNat / 2 ^ 52 % 2048 = 2047 := by omega
  have hdatum : datum a = .inf (a.getLsbD 63) ∨ datum a = .nan := by
    by_cases hfrac : a.toNat % 2 ^ 52 = 0
    · exact .inl (by simp only [datum, hexp, hfrac, if_true])
    · exact .inr (by simp only [datum, hexp, hfrac, if_true, if_false])
  obtain hd | hd := hdatum <;> simp [isFinite, hd] at h

/-- A finite datum taken apart, with the bounds of its fields. -/
theorem exists_datum_of_isFinite {a : F64} (h : isFinite a = true) :
    ∃ m e, datum a = .fin (a.getLsbD 63) m e ∧ m < 2 ^ 53 ∧ e ≤ 2046 := by
  obtain ⟨p, hp, ha⟩ := exists_withSign_of_isFinite h
  refine ⟨significand p, exponent p, ?_, significand_lt p, max_le (by omega) (by decide)⟩
  nth_rw 1 [ha]
  exact datum_withSign _ hp

theorem scaledReal_of_datum {a : F64} {neg : Bool} {m e : Nat} (h : datum a = .fin neg m e) :
    (scaledReal a : ℚ) = signed neg (m * 2 ^ e) := by
  cases neg <;> simp [scaledReal, h, signed]

theorem scaledReal_eq_zero_iff {a : F64} {neg : Bool} {m e : Nat} (h : datum a = .fin neg m e) :
    scaledReal a = 0 ↔ m = 0 := by
  cases neg <;> simp [scaledReal, h]

/-- Inside and at the upper end of a binade, a pattern's scaled value is its kept significand times the last bit's weight. -/
theorem magnitude_binade {u q : Nat} (hq : q ≤ 2 ^ 53) (hu : u = 0 ∨ 2 ^ 52 ≤ q) :
    magnitude (u * 2 ^ 52 + q) = q * 2 ^ (u + 1) := by
  unfold magnitude significand exponent
  obtain hsub | hnorm | htop : (u = 0 ∧ q < 2 ^ 52) ∨ (2 ^ 52 ≤ q ∧ q < 2 ^ 53) ∨ q = 2 ^ 53 := by omega
  · obtain ⟨rfl, hlt⟩ := hsub
    rw [if_pos (by omega), max_eq_right (by omega), show (0 * 2 ^ 52 + q) % 2 ^ 52 = q by omega]
  · rw [if_neg (by omega), max_eq_left (by omega), show (u * 2 ^ 52 + q) / 2 ^ 52 = u + 1 by omega,
      show (u * 2 ^ 52 + q) % 2 ^ 52 + 2 ^ 52 = q by omega]
  · rw [if_neg (by omega), max_eq_left (by omega), show (u * 2 ^ 52 + q) / 2 ^ 52 = u + 2 by omega,
      show (u * 2 ^ 52 + q) % 2 ^ 52 + 2 ^ 52 = 2 ^ 52 by omega, htop]
    ring

theorem exists_binade (p : Nat) : ∃ u q, q < 2 ^ 53 ∧ (u = 0 ∨ 2 ^ 52 ≤ q) ∧ p = u * 2 ^ 52 + q :=
  ⟨p / 2 ^ 52 - 1, p - (p / 2 ^ 52 - 1) * 2 ^ 52, by omega, by omega, by omega⟩

theorem magnitude_strictMono : StrictMono magnitude := by
  refine strictMono_nat_of_lt_succ fun p => ?_
  obtain ⟨u, q, hq, hu, rfl⟩ := exists_binade p
  rw [magnitude_binade hq.le hu, add_assoc, magnitude_binade hq (by omega)]
  exact Nat.mul_lt_mul_of_pos_right q.lt_succ_self (Nat.two_pow_pos _)

/-- Above the top of a binade the next pattern is at least one last-bit weight away. -/
theorem le_magnitude_succ {u q : Nat} (hq : q ≤ 2 ^ 53) (hu : u = 0 ∨ 2 ^ 52 ≤ q) :
    (q + 1) * 2 ^ (u + 1) ≤ magnitude (u * 2 ^ 52 + q + 1) := by
  obtain hlt | rfl := hq.lt_or_eq
  · rw [add_assoc, magnitude_binade hlt (by omega)]
  · rw [show u * 2 ^ 52 + 2 ^ 53 + 1 = (u + 1) * 2 ^ 52 + (2 ^ 52 + 1) by ring,
      magnitude_binade (by norm_num) (.inr (by norm_num)), pow_succ 2 (u + 1)]
    have := Nat.two_pow_pos (u + 1)
    omega

end Sys2Proof.Machine
end

section
/-! PROOF. Nearest patterns, ties to even. `NearestEven` says it by midpoints, so that neighbours decide it, the rounding limit
is one of the midpoints, and a tie is a midpoint. -/

namespace Sys2Proof.Machine

/-- `p` is the pattern nearest to `x`, ties to even, said by the midpoints: on either side `x` does not pass the midpoint to
any other pattern, and lies on one only when `p` is even. -/
def NearestEven (x : ℚ) (p : Nat) : Prop :=
  (∀ r < p, (magnitude r + magnitude p : ℚ) ≤ 2 * x ∧ ((magnitude r + magnitude p : ℚ) = 2 * x → p % 2 = 0)) ∧
  ∀ r, p < r → 2 * x ≤ magnitude p + magnitude r ∧ (2 * x = magnitude p + magnitude r → p % 2 = 0)

/-- `q` is the integer nearest to `y`, ties to even. -/
def NearestInt (y : ℚ) (q : Nat) : Prop := |y - q| ≤ 1 / 2 ∧ (|y - q| = 1 / 2 → q % 2 = 0)

theorem nearestEven_zero : NearestEven 0 0 :=
  ⟨fun _ h => absurd h (Nat.not_lt_zero _), fun r _ => ⟨by rw [mul_zero]; positivity, fun _ => rfl⟩⟩

/-- Rounding the significand to an integer gives the nearest pattern: above `y` the spacing of patterns is that of the
integers or wider, below it the same unless `y` starts the binade, and then `y` is not below its rounding. -/
theorem nearestEven_of_nearestInt {u q : Nat} {y : ℚ} (hq : q ≤ 2 ^ 53) (hu : u = 0 ∨ 2 ^ 52 ≤ q)
    (hlow : u = 0 ∨ 2 ^ 52 ≤ y) (hy : NearestInt y q) : NearestEven (y * 2 ^ (u + 1)) (u * 2 ^ 52 + q) := by
  obtain ⟨hnear, htie⟩ := hy
  obtain ⟨hdown, hup⟩ := abs_le.mp hnear
  have hw : (0 : ℚ) < 2 ^ (u + 1) := by positivity
  have hp : (magnitude (u * 2 ^ 52 + q) : ℚ) = q * 2 ^ (u + 1) := by exact_mod_cast magnitude_binade hq hu
  have heven : (u * 2 ^ 52 + q) % 2 = q % 2 := by omega
  rw [NearestEven, hp, heven]
  refine ⟨fun r hr => ?_, fun r hr => ?_⟩
  · have hlt : (magnitude r : ℚ) < q * 2 ^ (u + 1) := by rw [← hp]; exact_mod_cast magnitude_strictMono hr
    by_cases hqy : (q : ℚ) ≤ y
    · have := mul_le_mul_of_nonneg_right hqy hw.le
      exact ⟨by linarith, fun h => by linarith⟩
    · have hnext : u = 0 ∨ 2 ^ 52 ≤ q - 1 := hlow.imp_right fun h => by
        have : 2 ^ 52 < q := by exact_mod_cast h.trans_lt (not_le.mp hqy)
        omega
      have hr' : (magnitude r : ℚ) ≤ (q - 1) * 2 ^ (u + 1) := by
        have := magnitude_strictMono.monotone (show r ≤ u * 2 ^ 52 + (q - 1) by omega)
        rw [magnitude_binade (by omega) hnext] at this
        rw [← Nat.cast_pred (by omega)]
        exact_mod_cast this
      refine ⟨by nlinarith, fun h => htie ?_⟩
      have : 2 * y ≤ 2 * q - 1 := le_of_mul_le_mul_right (by linarith) hw
      rw [abs_of_nonpos (by linarith)]
      linarith
  · have hlt : (q * 2 ^ (u + 1) : ℚ) < magnitude r := by rw [← hp]; exact_mod_cast magnitude_strictMono hr
    by_cases hqy : y ≤ q
    · have := mul_le_mul_of_nonneg_right hqy hw.le
      exact ⟨by linarith, fun h => by linarith⟩
    · have hr' : ((q + 1) * 2 ^ (u + 1) : ℚ) ≤ magnitude r := by
        exact_mod_cast (le_magnitude_succ hq hu).trans (magnitude_strictMono.monotone hr)
      refine ⟨by nlinarith, fun h => htie ?_⟩
      have : 2 * q + 1 ≤ 2 * y := le_of_mul_le_mul_right (by linarith) hw
      rw [abs_of_nonneg (by linarith)]
      linarith

/-- The nearest pattern is at no greater distance than any other, and where another is as near it is even. -/
theorem NearestEven.dist_le {x : ℚ} {p : Nat} (h : NearestEven x p) (r : Nat) :
    |magnitude p - x| ≤ |magnitude r - x| ∧ (|magnitude p - x| = |magnitude r - x| → r = p ∨ p % 2 = 0) := by
  obtain ⟨hbelow, habove⟩ := h
  obtain hr | rfl | hr := lt_trichotomy r p
  · obtain ⟨hle, htie⟩ := hbelow r hr
    have hlt : (magnitude r : ℚ) < magnitude p := by exact_mod_cast magnitude_strictMono hr
    have hdist : |(magnitude r : ℚ) - x| = x - magnitude r := by rw [abs_of_nonpos (by linarith)]; ring
    rw [hdist]
    refine ⟨abs_le.mpr ⟨by linarith, by linarith⟩, fun heq => ?_⟩
    obtain h | h := (abs_eq (by linarith)).mp heq
    · exact .inr (htie (by linarith))
    · linarith
  · exact ⟨le_rfl, fun _ => .inl rfl⟩
  · obtain ⟨hle, htie⟩ := habove r hr
    have hlt : (magnitude p : ℚ) < magnitude r := by exact_mod_cast magnitude_strictMono hr
    have hdist : |(magnitude r : ℚ) - x| = magnitude r - x := abs_of_nonneg (by linarith)
    rw [hdist]
    refine ⟨abs_le.mpr ⟨by linarith, by linarith⟩, fun heq => ?_⟩
    obtain h | h := (abs_eq (by linarith)).mp heq
    · linarith
    · exact .inr (htie (by linarith))

/-- The rounding limit `2^1024 − 2^970`, scaled by 2^1075. -/
def roundingLimit : Nat := (2 ^ 54 - 1) * 2 ^ 2045

/-- The largest finite magnitude and the one that would follow it have the rounding limit as their midpoint. -/
theorem magnitude_at_limit : magnitude (2047 * 2 ^ 52 - 1) + magnitude (2047 * 2 ^ 52) = 2 * roundingLimit := by
  have hlast := magnitude_binade (u := 2045) (q := 2 ^ 53 - 1) (by norm_num) (.inr (by norm_num))
  have hnext := magnitude_binade (u := 2045) (q := 2 ^ 53) le_rfl (.inr (by norm_num))
  rw [show 2047 * 2 ^ 52 - 1 = 2045 * 2 ^ 52 + (2 ^ 53 - 1) by norm_num,
    show 2047 * 2 ^ 52 = 2045 * 2 ^ 52 + 2 ^ 53 by norm_num, hlast, hnext, roundingLimit, pow_succ 2 2045]
  generalize 2 ^ 2045 = w
  omega

/-- The nearest pattern is beyond the finite ones exactly from the rounding limit on: the last finite pattern is odd, so a
tie goes up. -/
theorem NearestEven.infinite_iff {x : ℚ} {p : Nat} (h : NearestEven x p) :
    2047 * 2 ^ 52 ≤ p ↔ (roundingLimit : ℚ) ≤ x := by
  obtain ⟨hbelow, habove⟩ := h
  have hmid : (magnitude (2047 * 2 ^ 52 - 1) + magnitude (2047 * 2 ^ 52) : ℚ) = 2 * roundingLimit := by
    exact_mod_cast magnitude_at_limit
  constructor
  · intro hp
    have hmono : (magnitude (2047 * 2 ^ 52) : ℚ) ≤ magnitude p := by
      exact_mod_cast magnitude_strictMono.monotone hp
    have := (hbelow (2047 * 2 ^ 52 - 1) (by omega)).1
    linarith
  · intro hx
    by_contra hp
    obtain ⟨hle, htie⟩ := habove (2047 * 2 ^ 52) (by omega)
    have hmono : (magnitude p : ℚ) ≤ magnitude (2047 * 2 ^ 52 - 1) := by
      exact_mod_cast magnitude_strictMono.monotone (by omega)
    have hlast : p = 2047 * 2 ^ 52 - 1 := magnitude_strictMono.injective (by
      exact_mod_cast le_antisymm hmono (by linarith))
    have := htie (by linarith)
    omega

end Sys2Proof.Machine
end

section
/-! PROOF. `roundPack` rounds once: it shifts the significand to the last bit kept, rounds it to an integer, and packs it.
`StandsFor` lets the same proof serve the quotient, whose significand is cut short. -/

namespace Sys2Proof.Machine

/-- `mag` rounds as the rational `a` does: it is `a`, or it keeps at least 54 places of `a` above a last bit that is set
because `a` is no integer of that scale. -/
def StandsFor (mag : Nat) (a : ℚ) : Prop := a = mag ∨ (mag % 2 = 1 ∧ 2 ^ 54 ≤ mag ∧ |a - mag| < 1)

theorem standsFor_natCast (mag : Nat) : StandsFor mag mag := .inl rfl

/-- An even number at or below the stand-in is at or below the rational. -/
theorem StandsFor.le_of_even_le {mag k : Nat} {a : ℚ} (h : StandsFor mag a) (hk : k % 2 = 0) (hle : k ≤ mag) :
    (k : ℚ) ≤ a := by
  obtain rfl | ⟨hodd, -, hdist⟩ := h
  · exact_mod_cast hle
  · have : (k + 1 : ℚ) ≤ mag := by exact_mod_cast (show k + 1 ≤ mag by omega)
    linarith [(abs_lt.mp hdist).1]

theorem nearestInt_natCast (q : Nat) : NearestInt q q := by
  rw [NearestInt, sub_self, abs_zero]
  exact ⟨by norm_num, by norm_num⟩

theorem nearestInt_div_iff {a w : ℚ} {q : Nat} (hw : 0 < w) :
    NearestInt (a / w) q ↔ 2 * |a - q * w| ≤ w ∧ (2 * |a - q * w| = w → q % 2 = 0) := by
  have hdist : |a / w - q| = |a - q * w| / w := by
    rw [← abs_of_pos hw, ← abs_div, abs_of_pos hw, sub_div, mul_div_cancel_right₀ _ hw.ne']
  rw [NearestInt, hdist, div_le_iff₀ hw, div_eq_iff hw.ne']
  constructor <;> rintro ⟨hle, htie⟩ <;> exact ⟨by linarith, fun h => htie (by linarith)⟩

/-- `roundShift` gives the nearest multiple of the weight kept, the even one where two are as near. -/
theorem roundShift_nearest (m d : Nat) :
    2 * |(m : Int) - roundShift m d * 2 ^ d| ≤ 2 ^ d ∧
    (2 * |(m : Int) - roundShift m d * 2 ^ d| = 2 ^ d → roundShift m d % 2 = 0) := by
  have hdiv := Nat.div_add_mod m (2 ^ d)
  have hmod := Nat.mod_lt m (Nat.two_pow_pos d)
  have hdown : (m : Int) - (m / 2 ^ d : Nat) * 2 ^ d = (m % 2 ^ d : Nat) := by
    nth_rw 1 [← hdiv]; push_cast; ring
  have hup : (m : Int) - (m / 2 ^ d + 1 : Nat) * 2 ^ d = (m % 2 ^ d : Nat) - 2 ^ d := by
    nth_rw 1 [← hdiv]; push_cast; ring
  have hpow : ((2 ^ d : Nat) : Int) = 2 ^ d := by push_cast; rfl
  unfold roundShift
  dsimp only
  split
  · rw [hup, ← hpow, abs_of_nonpos (by omega)]
    omega
  · rw [hdown, ← hpow, abs_of_nonneg (by omega)]
    omega

/-- Shifting out at least two places of a stand-in rounds the rational: the last bit of the stand-in is set, so no half way
point is within 1 of it. -/
theorem StandsFor.nearestInt_roundShift {mag d : Nat} {a : ℚ} (h : StandsFor mag a) (hd : 2 ^ 54 ≤ mag → 2 ≤ d) :
    NearestInt (a / 2 ^ d) (roundShift mag d) := by
  obtain ⟨hle, htie⟩ := roundShift_nearest mag d
  rw [nearestInt_div_iff (by positivity)]
  obtain rfl | ⟨hodd, hlarge, hdist⟩ := h
  · exact ⟨by exact_mod_cast hle, fun h => htie (by exact_mod_cast h)⟩
  · have hfour : (4 : Int) ∣ 2 ^ d := pow_dvd_pow 2 (hd hlarge)
    have hfar : 2 * |(mag : Int) - roundShift mag d * 2 ^ d| + 2 ≤ 2 ^ d := by
      obtain ⟨j, hj⟩ := hfour.mul_left (roundShift mag d : Int)
      rw [hj] at hle ⊢
      obtain ⟨habs, -⟩ | ⟨habs, -⟩ := abs_cases ((mag : Int) - 4 * j) <;> rw [habs] at hle ⊢ <;> omega
    have hfar' : 2 * |(mag : ℚ) - roundShift mag d * 2 ^ d| + 2 ≤ 2 ^ d := by exact_mod_cast hfar
    have htri : |a - roundShift mag d * 2 ^ d| < 1 + |(mag : ℚ) - roundShift mag d * 2 ^ d| :=
      (abs_sub_le a mag _).trans_lt (by linarith)
    exact ⟨by linarith, fun h => by linarith⟩

theorem roundShift_eq_or (m d : Nat) : roundShift m d = m / 2 ^ d ∨ roundShift m d = m / 2 ^ d + 1 := by
  unfold roundShift
  dsimp only
  split
  · exact .inr rfl
  · exact .inl rfl

theorem roundShift_le {m d k : Nat} (h : m < k * 2 ^ d) : roundShift m d ≤ k := by
  have : m / 2 ^ d < k := Nat.div_lt_of_lt_mul (by rwa [mul_comm])
  have := roundShift_eq_or m d
  omega

theorem le_roundShift {m d k : Nat} (h : k * 2 ^ d ≤ m) : k ≤ roundShift m d := by
  have : k ≤ m / 2 ^ d := (Nat.le_div_iff_mul_le (Nat.two_pow_pos d)).mpr h
  have := roundShift_eq_or m d
  omega

/-- The weight of the last bit that `roundPack` keeps. -/
def lastBit (mag e : Nat) : Nat := max (e + mag.log2 - 52) 3022

/-- The significand that `roundPack` keeps. -/
def keptSignificand (mag e : Nat) : Nat :=
  if lastBit mag e ≤ e then mag * 2 ^ (e - lastBit mag e) else roundShift mag (lastBit mag e - e)

theorem roundPack_eq (neg : Bool) (mag e : Nat) :
    roundPack neg mag e =
      if mag = 0 then withSign neg 0
      else if 2047 * 2 ^ 52 ≤ (lastBit mag e - 3022) * 2 ^ 52 + keptSignificand mag e then infinity neg
      else withSign neg ((lastBit mag e - 3022) * 2 ^ 52 + keptSignificand mag e) := rfl

theorem keptSignificand_le (mag e : Nat) : keptSignificand mag e ≤ 2 ^ 53 := by
  have hlog := @Nat.lt_log2_self mag
  unfold keptSignificand
  split
  case isTrue h =>
    have hle : mag.log2 + 1 + (e - lastBit mag e) ≤ 53 := by unfold lastBit at *; omega
    calc mag * 2 ^ (e - lastBit mag e) ≤ 2 ^ (mag.log2 + 1) * 2 ^ (e - lastBit mag e) := by gcongr
      _ = 2 ^ (mag.log2 + 1 + (e - lastBit mag e)) := (pow_add ..).symm
      _ ≤ 2 ^ 53 := Nat.pow_le_pow_right (by decide) hle
  case isFalse h =>
    have hle : mag.log2 + 1 ≤ 53 + (lastBit mag e - e) := by unfold lastBit at *; omega
    refine roundShift_le ?_
    rw [← pow_add]
    exact hlog.trans_le (Nat.pow_le_pow_right (by decide) hle)

theorem le_keptSignificand {mag e : Nat} (h0 : mag ≠ 0) (h : lastBit mag e ≠ 3022) :
    2 ^ 52 ≤ keptSignificand mag e := by
  have hlog := Nat.log2_self_le h0
  unfold keptSignificand
  split
  case isTrue h' =>
    have heq : mag.log2 + (e - lastBit mag e) = 52 := by unfold lastBit at *; omega
    calc 2 ^ 52 = 2 ^ mag.log2 * 2 ^ (e - lastBit mag e) := by rw [← pow_add, heq]
      _ ≤ mag * 2 ^ (e - lastBit mag e) := by gcongr
  case isFalse h' =>
    have heq : mag.log2 = 52 + (lastBit mag e - e) := by unfold lastBit at *; omega
    refine le_roundShift ?_
    rwa [← pow_add, ← heq]

/-- The significand that `roundPack` keeps is the exact one, in units of the last bit, rounded to nearest even. -/
theorem StandsFor.nearestInt_keptSignificand {mag e : Nat} {a : ℚ} (h : StandsFor mag a) :
    NearestInt (a * 2 ^ e / 2 ^ lastBit mag e) (keptSignificand mag e) := by
  have hlog : 2 ^ 54 ≤ mag → 54 ≤ mag.log2 := fun h => (Nat.le_log2 (by omega)).mpr h
  unfold keptSignificand
  split
  case isTrue hle =>
    have hmag : a = mag := h.resolve_right fun ⟨_, hlarge, _⟩ => by
      have := hlog hlarge
      unfold lastBit at hle
      omega
    have hexact : a * 2 ^ e / 2 ^ lastBit mag e = (mag * 2 ^ (e - lastBit mag e) : Nat) := by
      push_cast
      rw [hmag, pow_sub₀ (2 : ℚ) two_ne_zero hle, div_eq_mul_inv, mul_assoc]
    rw [hexact]
    exact nearestInt_natCast _
  case isFalse hlt =>
    have hshift : a * 2 ^ e / 2 ^ lastBit mag e = a / 2 ^ (lastBit mag e - e) := by
      rw [pow_sub₀ (2 : ℚ) two_ne_zero (le_of_not_ge hlt)]
      field_simp
    rw [hshift]
    refine h.nearestInt_roundShift fun hlarge => ?_
    have := hlog hlarge
    unfold lastBit
    omega

theorem StandsFor.two_pow_log2_le {mag : Nat} {a : ℚ} (h : StandsFor mag a) (h0 : mag ≠ 0) :
    (2 : ℚ) ^ mag.log2 ≤ a := by
  have hle := Nat.log2_self_le h0
  have hstands := h
  obtain rfl | ⟨-, hlarge, -⟩ := h
  · exact_mod_cast hle
  · have hlog : 54 ≤ mag.log2 := (Nat.le_log2 h0).mpr hlarge
    have heven : 2 ^ mag.log2 % 2 = 0 := Nat.mod_eq_zero_of_dvd (dvd_pow_self 2 (by omega))
    exact_mod_cast hstands.le_of_even_le heven hle

/-- A significand above the subnormals' is not below the first of its binade before it is rounded. -/
theorem StandsFor.le_significand {mag e : Nat} {a : ℚ} (h : StandsFor mag a) (h0 : mag ≠ 0) (ht : lastBit mag e ≠ 3022) :
    (2 : ℚ) ^ 52 ≤ a * 2 ^ e / 2 ^ lastBit mag e := by
  have hexp : mag.log2 + e = 52 + lastBit mag e := by unfold lastBit at *; omega
  rw [le_div_iff₀ (by positivity), ← pow_add, ← hexp, pow_add]
  exact mul_le_mul_of_nonneg_right (h.two_pow_log2_le h0) (by positivity)

/-- `r` is the magnitude `x`, in the scale of `scaledReal`, rounded once, with a sign: the nearest pattern, ties to even, or
the infinity where that is beyond the finite ones. -/
def RoundsTo (neg : Bool) (x : ℚ) (r : F64) : Prop :=
  ∃ p, NearestEven x p ∧ r = if 2047 * 2 ^ 52 ≤ p then infinity neg else withSign neg p

/-- `roundPack` rounds once. -/
theorem roundsTo_roundPack {mag : Nat} {a : ℚ} (neg : Bool) (e : Nat) (h : StandsFor mag a) :
    RoundsTo neg (a * 2 ^ e / 2 ^ 3021) (roundPack neg mag e) := by
  rw [roundPack_eq]
  by_cases h0 : mag = 0
  · have ha : a = 0 := by
      obtain rfl | ⟨hodd, -⟩ := h
      · exact_mod_cast h0
      · omega
    refine ⟨0, ?_, ?_⟩
    · rw [ha, zero_mul, zero_div]
      exact nearestEven_zero
    · rw [if_pos h0, if_neg (by norm_num)]
  · have hunit : a * 2 ^ e / 2 ^ 3021 = a * 2 ^ e / 2 ^ lastBit mag e * 2 ^ (lastBit mag e - 3022 + 1) := by
      have hexp : lastBit mag e = (lastBit mag e - 3022 + 1) + 3021 := by unfold lastBit; omega
      nth_rw 1 [hexp]
      rw [pow_add, div_mul_eq_mul_div, mul_comm ((2 : ℚ) ^ _) (2 ^ 3021), mul_div_mul_right _ _ (by positivity)]
    have hlast : lastBit mag e - 3022 = 0 ∨ lastBit mag e ≠ 3022 := by omega
    refine ⟨(lastBit mag e - 3022) * 2 ^ 52 + keptSignificand mag e, ?_, if_neg h0⟩
    rw [hunit]
    exact nearestEven_of_nearestInt (keptSignificand_le mag e) (hlast.imp_right (le_keptSignificand h0))
      (hlast.imp_right (h.le_significand h0)) h.nearestInt_keptSignificand

end Sys2Proof.Machine
end

section
/-! PROOF. What rounding once says of a result: the overflow, the sign, the distances. -/

namespace Sys2Proof.Machine

theorem RoundsTo.cases {neg : Bool} {x : ℚ} {r : F64} (h : RoundsTo neg x r) :
    (roundingLimit ≤ x ∧ r = infinity neg) ∨
    (x < roundingLimit ∧ ∃ p, p < 2047 * 2 ^ 52 ∧ NearestEven x p ∧ r = withSign neg p) := by
  obtain ⟨p, hp, rfl⟩ := h
  by_cases hinf : 2047 * 2 ^ 52 ≤ p
  · exact .inl ⟨hp.infinite_iff.mp hinf, if_pos hinf⟩
  · exact .inr ⟨not_le.mp (mt hp.infinite_iff.mpr hinf), p, not_le.mp hinf, hp, if_neg hinf⟩

theorem RoundsTo.isFinite_eq_false_iff {neg : Bool} {x : ℚ} {r : F64} (h : RoundsTo neg x r) :
    isFinite r = false ↔ (roundingLimit : ℚ) ≤ x := by
  obtain ⟨hx, rfl⟩ | ⟨hx, p, hp, -, rfl⟩ := h.cases
  · exact iff_of_true (isFinite_infinity neg) hx
  · exact iff_of_false (by rw [isFinite_withSign neg hp]; decide) (not_le.mpr hx)

theorem RoundsTo.eq_infinity {neg : Bool} {x : ℚ} {r : F64} (h : RoundsTo neg x r) (hr : isFinite r = false) :
    r = infinity neg := by
  obtain ⟨-, hinf⟩ | ⟨hx, -⟩ := h.cases
  · exact hinf
  · exact absurd (h.isFinite_eq_false_iff.mp hr) (not_le.mpr hx)

theorem RoundsTo.sign {neg : Bool} {x : ℚ} {r : F64} (h : RoundsTo neg x r) : r.getLsbD 63 = neg := by
  obtain ⟨-, rfl⟩ | ⟨-, p, hp, -, rfl⟩ := h.cases
  · exact getLsbD_sign_withSign neg (by norm_num)
  · exact getLsbD_sign_withSign neg (by omega)

theorem RoundsTo.exists_of_isFinite {neg : Bool} {x : ℚ} {r : F64} (h : RoundsTo neg x r) (hr : isFinite r = true) :
    ∃ p, p < 2047 * 2 ^ 52 ∧ NearestEven x p ∧ r = withSign neg p := by
  obtain ⟨-, rfl⟩ | ⟨-, hp⟩ := h.cases
  · rw [isFinite_infinity] at hr
    contradiction
  · exact hp

/-- No finite datum is nearer than the rounded one, and where one is as near the rounded one is even. A datum of the other
sign is no nearer than zero. -/
theorem RoundsTo.dist_le {neg : Bool} {x : ℚ} {r : F64} (h : RoundsTo neg x r) (hx : 0 ≤ x) (hr : isFinite r = true)
    {c : F64} (hc : isFinite c = true) :
    |scaledReal r - signed neg x| ≤ |scaledReal c - signed neg x| ∧
    (|scaledReal r - signed neg x| = |scaledReal c - signed neg x| →
      scaledReal c = scaledReal r ∨ r.getLsbD 0 = false) := by
  obtain ⟨p, hp, hnear, rfl⟩ := h.exists_of_isFinite hr
  obtain ⟨q, hq, hcq⟩ := exists_withSign_of_isFinite hc
  have heven : p % 2 = 0 → (withSign neg p).getLsbD 0 = false := fun h => by
    rw [getLsbD_zero_withSign neg (by omega), h]; rfl
  have hrval := scaledReal_withSign neg hp
  have hcval := scaledReal_withSign (c.getLsbD 63) hq
  rw [← hcq] at hcval
  rw [hrval, abs_signed_sub, ← @Int.cast_inj ℚ, hcval, hrval]
  by_cases hsame : c.getLsbD 63 = neg
  · obtain ⟨hle, htie⟩ := hnear.dist_le q
    rw [hsame, abs_signed_sub]
    exact ⟨hle, fun h => (htie h).imp (fun h => by rw [h]) heven⟩
  · obtain ⟨hle, htie⟩ := hnear.dist_le 0
    have hzero : (magnitude 0 : ℚ) = 0 := by norm_num [magnitude, significand]
    have hq0 : (0 : ℚ) ≤ magnitude q := Nat.cast_nonneg _
    have hother : |(-magnitude q : ℚ) - x| = magnitude q + x := by
      rw [abs_of_nonpos (by linarith)]; ring
    rw [hzero, zero_sub, abs_neg, abs_of_nonneg hx] at hle htie
    rw [Bool.eq_not_of_ne hsame, signed_not, abs_signed_sub, hother]
    refine ⟨by linarith, fun heq => ?_⟩
    have hcq0 : (magnitude q : ℚ) = 0 := by linarith
    refine (htie (by linarith)).imp (fun h => ?_) heven
    rw [← h, hcq0, hzero, neg_zero]

theorem cast_roundingLimit : (roundingLimit : Int) = (2 ^ 54 - 1) * 2 ^ 2045 := by
  rw [roundingLimit, Nat.cast_mul, Nat.cast_pow, Nat.cast_sub (by norm_num)]
  rfl

/-- `r` is the quotient `x / d` of two integers, `d` not zero, rounded once, in the scale of `scaledReal`: what the
statements on the operations say of finite operands. Distances are multiplied by `d`. -/
structure CorrectlyRounded (neg : Bool) (x d : Int) (r : F64) : Prop where
  infinite_iff : isFinite r = false ↔ roundingLimit * |d| ≤ |x|
  eq_infinity : isFinite r = false → r = infinity neg
  sign : r.getLsbD 63 = neg
  nearest : isFinite r = true → ∀ c : F64, isFinite c = true →
    |scaledReal r * d - x| ≤ |scaledReal c * d - x| ∧
    (|scaledReal r * d - x| = |scaledReal c * d - x| → scaledReal c = scaledReal r ∨ r.getLsbD 0 = false)

theorem RoundsTo.correctlyRounded {neg : Bool} {y : ℚ} {x d : Int} {r : F64} (h : RoundsTo neg y r) (hy : 0 ≤ y)
    (hd : d ≠ 0) (hx : (x : ℚ) = signed neg y * d) : CorrectlyRounded neg x d r := by
  have hpos : (0 : ℚ) < |(d : ℚ)| := by positivity
  have hdist : ∀ c : F64, ((|scaledReal c * d - x| : Int) : ℚ) = |scaledReal c - signed neg y| * |(d : ℚ)| := fun c => by
    push_cast
    rw [hx, ← sub_mul, abs_mul]
  refine ⟨?_, h.eq_infinity, h.sign, fun hr c hc => ?_⟩
  · rw [h.isFinite_eq_false_iff, ← @Int.cast_le ℚ]
    push_cast
    rw [hx, abs_mul, abs_signed neg hy, mul_le_mul_iff_left₀ hpos]
  · obtain ⟨hle, htie⟩ := h.dist_le hy hr hc
    rw [← @Int.cast_le ℚ, ← @Int.cast_inj ℚ, hdist, hdist]
    exact ⟨mul_le_mul_of_nonneg_right hle hpos.le, fun h => htie (mul_right_cancel₀ hpos.ne' h)⟩

end Sys2Proof.Machine
end

section
/-! PROOF. The sum, the product and the quotient of R9. -/

namespace Sys2Proof.Machine

section Operands
variable {a b : F64} {s t : Bool} {m e n g : Nat}

/-! ### The operations by the kinds of their operands -/

theorem fadd_fin_fin (ha : datum a = .fin s m e) (hb : datum b = .fin t n g) :
    fadd a b = roundPack (sumSign (scaledReal a + scaledReal b) s t) (scaledReal a + scaledReal b).natAbs 3021 := by
  simp only [fadd, ha, hb]

theorem fadd_inf_fin (ha : datum a = .inf s) (hb : datum b = .fin t n g) : fadd a b = infinity s := by
  simp only [fadd, ha, hb]

theorem fadd_fin_inf (ha : datum a = .fin s m e) (hb : datum b = .inf t) : fadd a b = infinity t := by
  simp only [fadd, ha, hb]

theorem fadd_inf_inf (ha : datum a = .inf s) (hb : datum b = .inf t) :
    fadd a b = if s = t then infinity s else innerNaN := by
  simp only [fadd, ha, hb]

theorem fadd_nan (h : datum a = .nan ∨ datum b = .nan) : fadd a b = innerNaN := by
  unfold fadd
  obtain ha | hb := h
  · simp only [ha]
  · cases ha : datum a <;> simp only [hb]

theorem fmul_fin_fin (ha : datum a = .fin s m e) (hb : datum b = .fin t n g) :
    fmul a b = roundPack (s != t) (m * n) (e + g + 1946) := by
  simp only [fmul, ha, hb]

theorem fmul_inf_fin (ha : datum a = .inf s) (hb : datum b = .fin t n g) :
    fmul a b = if n = 0 then innerNaN else infinity (s != t) := by
  simp only [fmul, ha, hb]

theorem fmul_fin_inf (ha : datum a = .fin s m e) (hb : datum b = .inf t) :
    fmul a b = if m = 0 then innerNaN else infinity (s != t) := by
  simp only [fmul, ha, hb]

theorem fmul_inf_inf (ha : datum a = .inf s) (hb : datum b = .inf t) : fmul a b = infinity (s != t) := by
  simp only [fmul, ha, hb]

theorem fmul_nan (h : datum a = .nan ∨ datum b = .nan) : fmul a b = innerNaN := by
  unfold fmul
  obtain ha | hb := h
  · simp only [ha]
  · cases ha : datum a <;> simp only [hb]

theorem fdiv_fin_fin (ha : datum a = .fin s m e) (hb : datum b = .fin t n g) :
    fdiv a b = if n = 0 then (if m = 0 then innerNaN else infinity (s != t))
      else roundPack (s != t) (quotientBits m n) (e + 3975 - g) := by
  simp only [fdiv, ha, hb]

theorem fdiv_inf_fin (ha : datum a = .inf s) (hb : datum b = .fin t n g) : fdiv a b = infinity (s != t) := by
  simp only [fdiv, ha, hb]

theorem fdiv_fin_inf (ha : datum a = .fin s m e) (hb : datum b = .inf t) : fdiv a b = withSign (s != t) 0 := by
  simp only [fdiv, ha, hb]

theorem fdiv_inf_inf (ha : datum a = .inf s) (hb : datum b = .inf t) : fdiv a b = innerNaN := by
  simp only [fdiv, ha, hb]

theorem fdiv_nan (h : datum a = .nan ∨ datum b = .nan) : fdiv a b = innerNaN := by
  unfold fdiv
  obtain ha | hb := h
  · simp only [ha]
  · cases ha : datum a <;> simp only [hb]

/-! ### Finite operands -/

theorem signed_sumSign (x : Int) (s t : Bool) : signed (sumSign x s t) |(x : ℚ)| = x := by
  unfold sumSign
  split
  case isTrue hx => simp [signed, hx]
  case isFalse hx => exact signed_lt_zero_abs x

theorem fadd_roundsTo (ha : datum a = .fin s m e) (hb : datum b = .fin t n g) :
    RoundsTo (sumSign (scaledReal a + scaledReal b) s t) |((scaledReal a + scaledReal b : Int) : ℚ)| (fadd a b) := by
  have h := roundsTo_roundPack (sumSign (scaledReal a + scaledReal b) s t) 3021
    (standsFor_natCast (scaledReal a + scaledReal b).natAbs)
  rw [mul_div_cancel_right₀ _ (by positivity), Nat.cast_natAbs, Int.cast_abs] at h
  rwa [fadd_fin_fin ha hb]

theorem fadd_correctlyRounded (ha : datum a = .fin s m e) (hb : datum b = .fin t n g) :
    CorrectlyRounded (sumSign (scaledReal a + scaledReal b) s t) (scaledReal a + scaledReal b) 1 (fadd a b) :=
  (fadd_roundsTo ha hb).correctlyRounded (abs_nonneg _) one_ne_zero
    (by rw [signed_sumSign, Int.cast_one, mul_one])

theorem fmul_correctlyRounded (ha : datum a = .fin s m e) (hb : datum b = .fin t n g) :
    CorrectlyRounded (s != t) (scaledReal a * scaledReal b) (2 ^ 1075) (fmul a b) := by
  have h := roundsTo_roundPack (s != t) (e + g + 1946) (standsFor_natCast (m * n))
  rw [← fmul_fin_fin ha hb] at h
  refine h.correctlyRounded (by positivity) (by positivity) ?_
  have hscale : (m : ℚ) * 2 ^ e * (n * 2 ^ g) = (m * n : Nat) * 2 ^ (e + g + 1946) / 2 ^ 3021 * 2 ^ 1075 := by
    rw [show 3021 = 1946 + 1075 from rfl, pow_add 2 (e + g), pow_add 2 e, pow_add 2 1946, Nat.cast_mul]
    have hv : (2 : ℚ) ^ 1946 ≠ 0 := by positivity
    have hw : (2 : ℚ) ^ 1075 ≠ 0 := by positivity
    generalize (2 : ℚ) ^ 1946 = v, (2 : ℚ) ^ 1075 = w at *
    field_simp
  rw [Int.cast_mul, scaledReal_of_datum ha, scaledReal_of_datum hb, signed_mul, hscale, Int.cast_pow,
    Int.cast_ofNat, signed_mul_right]

/-- 120 binary places of the quotient and a last bit for the rest of it round as the quotient does. -/
theorem standsFor_quotientBits (hn : n < 2 ^ 53) (hn0 : n ≠ 0) :
    StandsFor (quotientBits m n) (m * 2 ^ 121 / n) := by
  have hnpos : (0 : ℚ) < n := by positivity
  have hdiv : (n * (m * 2 ^ 120 / n : Nat) + (m * 2 ^ 120 % n : Nat) : ℚ) = m * 2 ^ 120 := by
    exact_mod_cast Nat.div_add_mod (m * 2 ^ 120) n
  have hmod : ((m * 2 ^ 120 % n : Nat) : ℚ) < n := by exact_mod_cast Nat.mod_lt _ (Nat.pos_of_ne_zero hn0)
  unfold quotientBits
  by_cases hr : m * 2 ^ 120 % n = 0
  · left
    rw [hr] at hdiv
    rw [if_pos hr, div_eq_iff hnpos.ne']
    push_cast at hdiv ⊢
    linarith
  · right
    have hlarge : 2 ^ 53 ≤ m * 2 ^ 120 / n := by
      have hm : 1 ≤ m := Nat.pos_of_ne_zero fun h => hr (by simp [h])
      rw [Nat.le_div_iff_mul_le (Nat.pos_of_ne_zero hn0)]
      omega
    have hpos : (0 : ℚ) < (m * 2 ^ 120 % n : Nat) := by exact_mod_cast Nat.pos_of_ne_zero hr
    rw [if_neg hr]
    refine ⟨by omega, by omega, ?_⟩
    have hquot : (m * 2 ^ 121 / n : ℚ) - (2 * (m * 2 ^ 120 / n) + 1 : Nat) = (2 * (m * 2 ^ 120 % n : Nat) - n) / n := by
      rw [eq_div_iff hnpos.ne', sub_mul, div_mul_cancel₀ _ hnpos.ne']
      push_cast at hdiv ⊢
      linarith
    rw [hquot, abs_lt, lt_div_iff₀ hnpos, div_lt_iff₀ hnpos]
    constructor <;> linarith

theorem fdiv_correctlyRounded (ha : datum a = .fin s m e) (hb : datum b = .fin t n g) (hn : n < 2 ^ 53)
    (hn0 : n ≠ 0) (hg : g ≤ 2046) :
    CorrectlyRounded (s != t) (scaledReal a * 2 ^ 1075) (scaledReal b) (fdiv a b) := by
  have h := roundsTo_roundPack (s != t) (e + 3975 - g) (standsFor_quotientBits (m := m) hn hn0)
  rw [fdiv_fin_fin ha hb, if_neg hn0]
  refine h.correctlyRounded (by positivity) (by rwa [Ne, scaledReal_eq_zero_iff hb]) ?_
  have hscale : (m : ℚ) * 2 ^ e * 2 ^ 1075 = m * 2 ^ 121 / n * 2 ^ (e + 3975 - g) / 2 ^ 3021 * (n * 2 ^ g) := by
    have hcancel : (2 : ℚ) ^ (e + 3975 - g) * 2 ^ g = 2 ^ e * 2 ^ 3975 := by
      rw [← pow_add, ← pow_add, Nat.sub_add_cancel (by omega)]
    have hsum : (2 : ℚ) ^ 121 * 2 ^ 3975 = 2 ^ 3021 * 2 ^ 1075 := by rw [← pow_add, ← pow_add]
    have hn0' : (n : ℚ) ≠ 0 := by exact_mod_cast hn0
    have hpos : (2 : ℚ) ^ 3021 ≠ 0 := by positivity
    generalize (2 : ℚ) ^ 121 = u, (2 : ℚ) ^ 3975 = v, (2 : ℚ) ^ 3021 = w, (2 : ℚ) ^ 1075 = z at *
    field_simp
    linear_combination -(m * u * hcancel + m * 2 ^ e * hsum)
  have hsign : ((s != t) != t) = s := by cases s <;> cases t <;> rfl
  rw [Int.cast_mul, scaledReal_of_datum ha, scaledReal_of_datum hb, signed_mul, hsign, ← hscale, Int.cast_pow,
    Int.cast_ofNat, signed_mul_right]

end Operands

theorem datum_nan_or {a b : F64} (h : isNaN a = true ∨ isNaN b = true) : datum a = .nan ∨ datum b = .nan :=
  h.imp datum_of_isNaN datum_of_isNaN

/-- Settles O27: the model rounds the exact sum with `roundPack`; the special operands are cases of its definition. -/
theorem sumRoundsOnceToNearestEven : Obligations.SumRoundsOnceToNearestEven := by
  refine ⟨fun a b ha hb => ?_, fun neg b hb => ?_, fun neg => ⟨?_, ?_⟩, fun a b h => ?_⟩
  · obtain ⟨m, e, hda, -, -⟩ := exists_datum_of_isFinite ha
    obtain ⟨n, g, hdb, -, -⟩ := exists_datum_of_isFinite hb
    have hsum := fadd_fin_fin hda hdb
    obtain ⟨hinf, heq, hsign, hnear⟩ := fadd_correctlyRounded hda hdb
    simp only [mul_one, abs_one, cast_roundingLimit] at hinf hnear
    refine ⟨hinf, fun h => ?_, fun h0 => ?_, fun h0 => ?_, hnear⟩
    · have h0 : scaledReal a + scaledReal b ≠ 0 := fun h0 => by
        have := hinf.mp h
        rw [h0, abs_zero] at this
        exact absurd this (not_le.mpr (by positivity))
      rw [heq h, sumSign, if_neg h0]
    · rw [hsign, sumSign, if_neg h0]
    · rw [hsum, h0]
      rfl
  · obtain ⟨m, e, hdb, -, -⟩ := exists_datum_of_isFinite hb
    exact ⟨fadd_inf_fin (datum_infinity neg) hdb, fadd_fin_inf hdb (datum_infinity neg)⟩
  · rw [fadd_inf_inf (datum_infinity neg) (datum_infinity neg), if_pos rfl]
  · rw [fadd_inf_inf (datum_infinity neg) (datum_infinity !neg), if_neg (by cases neg <;> decide)]
    exact isNaN_innerNaN
  · rw [fadd_nan (datum_nan_or h)]
    exact isNaN_innerNaN

/-- Settles O28: the model rounds the exact product with `roundPack`; the special operands are cases of its definition. -/
theorem productRoundsOnceToNearestEven : Obligations.ProductRoundsOnceToNearestEven := by
  refine ⟨fun a b ha hb => ?_, fun neg b hb => ?_, fun m n => ?_, fun a b h => ?_⟩
  · obtain ⟨m, e, hda, -, -⟩ := exists_datum_of_isFinite ha
    obtain ⟨n, g, hdb, -, -⟩ := exists_datum_of_isFinite hb
    obtain ⟨hinf, heq, hsign, hnear⟩ := fmul_correctlyRounded hda hdb
    have hlimit : (roundingLimit : Int) * |2 ^ 1075| = (2 ^ 54 - 1) * 2 ^ (970 + 2150) := by
      rw [cast_roundingLimit, abs_of_pos (by positivity), mul_assoc, ← pow_add]
    rw [hlimit] at hinf
    exact ⟨hinf, heq, hsign, hnear⟩
  · obtain ⟨m, e, hdb, -, -⟩ := exists_datum_of_isFinite hb
    rw [Ne, scaledReal_eq_zero_iff hdb, fmul_inf_fin (datum_infinity neg) hdb, fmul_fin_inf hdb (datum_infinity neg)]
    refine ⟨fun h0 => ?_, fun h0 => ?_⟩
    · rw [if_neg h0, if_neg h0]
      exact ⟨rfl, rfl⟩
    · rw [if_pos h0, if_pos h0]
      exact ⟨isNaN_innerNaN, isNaN_innerNaN⟩
  · exact fmul_inf_inf (datum_infinity m) (datum_infinity n)
  · rw [fmul_nan (datum_nan_or h)]
    exact isNaN_innerNaN

/-- Settles O29: the model rounds a stand-in for the exact quotient with `roundPack`; the special operands are cases of its
definition. -/
theorem quotientRoundsOnceToNearestEven : Obligations.QuotientRoundsOnceToNearestEven := by
  refine ⟨fun a b ha hb hb0 => ?_, fun a b ha hb hb0 => ?_, fun neg b hb => ?_, fun m n => ?_, fun a b h => ?_⟩
  · obtain ⟨m, e, hda, -, -⟩ := exists_datum_of_isFinite ha
    obtain ⟨n, g, hdb, hn, hg⟩ := exists_datum_of_isFinite hb
    obtain ⟨hinf, heq, hsign, hnear⟩ :=
      fdiv_correctlyRounded hda hdb hn (mt (scaledReal_eq_zero_iff hdb).mpr hb0) hg
    have hlimit : (roundingLimit : Int) * |scaledReal b| ≤ |scaledReal a * 2 ^ 1075| ↔
        (2 ^ 54 - 1) * 2 ^ 970 * |scaledReal b| ≤ |scaledReal a| := by
      have hpos : (0 : Int) < 2 ^ 1075 := by positivity
      rw [cast_roundingLimit, abs_mul, abs_of_pos hpos, show 2045 = 970 + 1075 from rfl, pow_add, ← mul_assoc,
        mul_right_comm, mul_le_mul_iff_left₀ hpos]
    rw [hlimit] at hinf
    exact ⟨hinf, heq, hsign, hnear⟩
  · obtain ⟨m, e, hda, -, -⟩ := exists_datum_of_isFinite ha
    obtain ⟨n, g, hdb, -, -⟩ := exists_datum_of_isFinite hb
    rw [Ne, scaledReal_eq_zero_iff hda, fdiv_fin_fin hda hdb, if_pos ((scaledReal_eq_zero_iff hdb).mp hb0)]
    refine ⟨fun h0 => if_neg h0, fun h0 => ?_⟩
    rw [if_pos h0]
    exact isNaN_innerNaN
  · obtain ⟨m, e, hdb, -, -⟩ := exists_datum_of_isFinite hb
    exact ⟨fdiv_inf_fin (datum_infinity neg) hdb, fdiv_fin_inf hdb (datum_infinity neg)⟩
  · rw [fdiv_inf_inf (datum_infinity m) (datum_infinity n)]
    exact isNaN_innerNaN
  · rw [fdiv_nan (datum_nan_or h)]
    exact isNaN_innerNaN

end Sys2Proof.Machine
end

section
/-! PROOF. `ofInt` of R9: integers that have a pattern round to it. -/

namespace Sys2Proof.Machine

theorem NearestEven.eq_of_magnitude {p q : Nat} (h : NearestEven (magnitude p) q) : q = p := by
  have hle := (h.dist_le p).1
  rw [sub_self, abs_zero, abs_nonpos_iff, sub_eq_zero] at hle
  exact magnitude_strictMono.injective (by exact_mod_cast hle)

/-- A magnitude that has a pattern rounds to it. -/
theorem RoundsTo.eq_withSign {neg : Bool} {p : Nat} {r : F64} (h : RoundsTo neg (magnitude p) r)
    (hp : p < 2047 * 2 ^ 52) : r = withSign neg p := by
  obtain ⟨q, hq, rfl⟩ := h
  rw [hq.eq_of_magnitude, if_neg (not_le.mpr hp)]

/-- A significand of at most 53 bits whose last bit is in the range of the exponents is kept whole. -/
theorem magnitude_keptSignificand {m e : Nat} (h0 : m ≠ 0) (hm : m < 2 ^ 53) (he : 3022 ≤ e) :
    magnitude ((lastBit m e - 3022) * 2 ^ 52 + keptSignificand m e) = m * 2 ^ (e - 3021) := by
  have hlog : m.log2 < 53 := (Nat.log2_lt h0).mpr hm
  have hle : lastBit m e ≤ e := by unfold lastBit; omega
  have hge : 3022 ≤ lastBit m e := le_max_right _ _
  have hlast : lastBit m e - 3022 = 0 ∨ lastBit m e ≠ 3022 := by omega
  rw [magnitude_binade (keptSignificand_le m e) (hlast.imp_right (le_keptSignificand h0)), keptSignificand, if_pos hle,
    mul_assoc, ← pow_add, show e - lastBit m e + (lastBit m e - 3022 + 1) = e - 3021 by omega]

theorem exists_magnitude_eq_of_lt {m k : Nat} (h0 : m ≠ 0) (hm : m < 2 ^ 53) (hk : 1 ≤ k) (hk' : k ≤ 2045) :
    ∃ p, p < 2047 * 2 ^ 52 ∧ magnitude p = m * 2 ^ k := by
  have hmag := magnitude_keptSignificand (e := k + 3021) h0 hm (by omega)
  rw [Nat.add_sub_cancel] at hmag
  refine ⟨_, ?_, hmag⟩
  have hlog : m.log2 < 53 := (Nat.log2_lt h0).mpr hm
  have hlast : lastBit m (k + 3021) ≤ k + 3021 := by unfold lastBit; omega
  have := keptSignificand_le m (k + 3021)
  omega

/-- Every integer up to 2^53 in units of any last bit of the format, short of the top of its range, has a pattern. -/
theorem exists_magnitude_eq {m k : Nat} (hm : m ≤ 2 ^ 53) (hk : 1 ≤ k) (hk' : k ≤ 2044) :
    ∃ p, p < 2047 * 2 ^ 52 ∧ magnitude p = m * 2 ^ k := by
  obtain rfl | h0 := eq_or_ne m 0
  · exact ⟨0, by norm_num, by simp [magnitude, significand]⟩
  · obtain hlt | rfl := hm.lt_or_eq
    · exact exists_magnitude_eq_of_lt h0 hlt hk (by omega)
    · obtain ⟨p, hp, hmag⟩ := exists_magnitude_eq_of_lt (m := 2 ^ 52) (k := k + 1) (by norm_num) (by norm_num)
        (by omega) (by omega)
      exact ⟨p, hp, by rw [hmag, pow_succ 2 k]; ring⟩

theorem ofInt_roundsTo (n : Int) : RoundsTo (decide (n < 0)) (n.natAbs * 2 ^ 1075 : Nat) (ofInt n) := by
  have h := roundsTo_roundPack (decide (n < 0)) 4096 (standsFor_natCast n.natAbs)
  rwa [show 4096 = 1075 + 3021 from rfl, pow_add, ← mul_assoc, mul_div_cancel_right₀ _ (by positivity),
    ← Nat.cast_two, ← Nat.cast_pow, ← Nat.cast_mul] at h

/-- Settles O31: an integer of at most 53 bits has a pattern, so `ofInt` rounds to it. -/
theorem ofIntIsExact : Obligations.OfIntIsExact := by
  intro n hn
  obtain ⟨p, hp, hmag⟩ := exists_magnitude_eq (m := n.natAbs) (k := 1075)
    (by rw [Int.abs_eq_natAbs] at hn; omega) (by norm_num) (by norm_num)
  have hround := ofInt_roundsTo n
  rw [← hmag] at hround
  have heq := hround.eq_withSign hp
  refine ⟨heq ▸ isFinite_withSign _ hp, ?_⟩
  rw [heq, ← @Int.cast_inj ℚ, scaledReal_withSign _ hp, hmag, Nat.cast_mul, Nat.cast_natAbs, Int.cast_abs,
    ← signed_mul_right, signed_lt_zero_abs, Int.cast_mul, Int.cast_pow, Nat.cast_pow, Int.cast_ofNat, Nat.cast_ofNat]

end Sys2Proof.Machine
end

section
/-! PROOF. `rhaz` of R14. -/

namespace Sys2Proof.Machine

theorem roundHalfUp_eq (n : Nat) : (roundHalfUp n : Int) = (2 * n + 2 ^ 1075) / 2 ^ 1076 := by
  have h : roundHalfUp n = (2 * n + 2 ^ 1075) / 2 ^ 1076 := by
    rw [roundHalfUp, pow_succ 2 1075, ← Nat.mul_div_mul_right _ _ two_pos, add_mul, ← pow_succ 2 1074, mul_comm n]
  exact_mod_cast h

/-- Division by twice a half, the half added first: from the lower half way point, which is included, to below the upper. -/
theorem div_twice_bounds (n : Nat) {v : Nat} (hv : 0 < v) :
    2 * ((n + v) / (v * 2) * (v * 2)) ≤ 2 * n + v * 2 ∧ 2 * n < 2 * ((n + v) / (v * 2) * (v * 2)) + v * 2 := by
  have hdiv := Nat.div_add_mod' (n + v) (v * 2)
  have hmod := Nat.mod_lt (n + v) (Nat.mul_pos hv two_pos)
  omega

theorem roundHalfUp_bounds (n : Nat) :
    2 * (roundHalfUp n * 2 ^ 1075) ≤ 2 * n + 2 ^ 1075 ∧ 2 * n < 2 * (roundHalfUp n * 2 ^ 1075) + 2 ^ 1075 := by
  have htwice : 2 ^ 1075 = 2 ^ 1074 * 2 := by rw [← pow_succ]
  rw [roundHalfUp, htwice]
  exact div_twice_bounds n (pow_pos two_pos 1074)

theorem roundHalfUp_nearest (n : Nat) :
    2 * |(roundHalfUp n : Int) * 2 ^ 1075 - n| ≤ 2 ^ 1075 ∧
    (2 * |(roundHalfUp n : Int) * 2 ^ 1075 - n| = 2 ^ 1075 → |(n : Int)| < |(roundHalfUp n : Int) * 2 ^ 1075|) := by
  have hle : 2 * ((roundHalfUp n : Int) * 2 ^ 1075) ≤ 2 * n + 2 ^ 1075 := by exact_mod_cast (roundHalfUp_bounds n).1
  have hlt : 2 * (n : Int) < 2 * (roundHalfUp n * 2 ^ 1075) + 2 ^ 1075 := by exact_mod_cast (roundHalfUp_bounds n).2
  have hpos : (0 : Int) < 2 ^ 1075 := by positivity
  rw [Nat.abs_cast, abs_of_nonneg (mul_nonneg (Int.natCast_nonneg _) hpos.le)]
  generalize (roundHalfUp n : Int) * 2 ^ 1075 = k at *
  generalize (2 : Int) ^ 1075 = w at *
  obtain ⟨habs, -⟩ | ⟨habs, -⟩ := abs_cases (k - n) <;> rw [habs] <;> omega

theorem rhaz_of_nonneg {a : F64} {n : Nat} (h : scaledReal a = n) : rhaz a = roundHalfUp n := by
  rw [rhaz, h]
  exact if_pos (Int.natCast_nonneg n)

theorem rhaz_of_neg {a : F64} {n : Nat} (h : scaledReal a = -n) (h0 : n ≠ 0) : rhaz a = -roundHalfUp n := by
  rw [rhaz, h, Int.natAbs_neg]
  exact if_neg (by omega)

/-- Settles O30: both branches of `rhaz` round the magnitude half up. -/
theorem rhazRoundsHalfAwayFromZero : Obligations.RhazRoundsHalfAwayFromZero := by
  intro a _
  obtain hx | hx := le_or_gt 0 (scaledReal a)
  · obtain ⟨n, hn⟩ := Int.eq_ofNat_of_zero_le hx
    obtain ⟨hle, htie⟩ := roundHalfUp_nearest n
    rw [rhaz_of_nonneg hn, hn]
    exact ⟨fun _ => roundHalfUp_eq n, fun h => by omega, hle, htie⟩
  · obtain ⟨n, hn⟩ := Int.exists_eq_neg_ofNat hx.le
    obtain ⟨hle, htie⟩ := roundHalfUp_nearest n
    have hdist : |-(roundHalfUp n : Int) * 2 ^ 1075 - -n| = |(roundHalfUp n : Int) * 2 ^ 1075 - n| := by
      rw [neg_mul, neg_sub_neg, abs_sub_comm]
    rw [rhaz_of_neg hn (by omega), hn, hdist, neg_mul_neg, neg_mul, abs_neg, abs_neg]
    exact ⟨fun h => by omega, fun _ => by rw [roundHalfUp_eq], hle, htie⟩

end Sys2Proof.Machine
end

section
/-! PROOF. What a command can do (30_encoding.md R91, 60_exceptions.md R272): it completes with its stated effect, or takes
a fault. -/

namespace Sys2Proof.Machine

theorem except_bind_eq_ok {ε α β : Type} {x : Except ε α} {k : α → Except ε β} {b : β} :
    (x >>= k) = .ok b ↔ ∃ a, x = .ok a ∧ k a = .ok b := by
  cases x <;> simp

@[simp] theorem checkShape_eq_ok {rows cols : Nat} {u : Unit} :
    checkShape rows cols = .ok u ↔ rows = 8 ∧ cols = 8 := by
  unfold checkShape
  split <;> simp [*]

@[simp] theorem checkLength_eq_ok {n : Nat} {u : Unit} : checkLength n = .ok u ↔ n = 64 := by
  unfold checkLength
  split <;> simp [*]

@[simp] theorem checkProfile_eq_ok {s : State} {u : Unit} : checkProfile s = .ok u ↔ s.plock = true := by
  unfold checkProfile
  split <;> simp [*]

@[simp] theorem checkRoom_eq_ok {s : State} {u : Unit} :
    checkRoom s = .ok u ↔ s.slen.toNat + 64 ≤ s.params.smax := by
  unfold checkRoom
  split <;> simp [*]

@[simp] theorem checkSlice_eq_ok {s : State} {blk : Nat} {u : Unit} :
    checkSlice s blk = .ok u ↔ 64 * blk + 64 ≤ s.slen.toNat := by
  unfold checkSlice
  split <;> simp [*]

/-- `Completes s i t`: command `i` has passed its checks in `s` and commits `t`. -/
inductive Completes (s : State) : Instr → State → Prop
  | nop : Completes s .nop s
  | abort : Completes s .abort s.aborted
  | dctFwd : Completes s (.dctFwd 8 8) ((s.withF (settleBlock s.draws (dctCoefficient s.x))).drawn 64)
  | dctInv : Completes s (.dctInv 8 8) ((s.withX (settleBlock s.draws (dctSample s.f))).drawn 64)
  | qntFwd {z : Block Symbol} (profile : s.plock = true) (quantized : quantizeBlock s = .ok z) :
      Completes s (.qntFwd 8 8) (s.withZ z)
  | qntInv (profile : s.plock = true) :
      Completes s (.qntInv 8 8) (s.withF (Vector.ofFn fun k => dequantizeOne (blockAt s.z k) (s.profileEntry k)))
  | zzSer (room : s.slen.toNat + 64 ≤ s.params.smax) :
      Completes s (.zzSer 8 8)
        (s.withSymbols (s.sBuf.writeList 0 s.slen.toNat (serialize s.z)) (s.slen.toNat + 64))
  | zzDes {blk : Nat} (inside : 64 * blk + 64 ≤ s.slen.toNat) :
      Completes s (.zzDes 64 blk) (s.withZ (deserialize (fun k => s.symbolAt (64 * blk + k)) s.z))
  | rleEnc :
      Completes s .rleEnc
        ((s.withPairs (s.pBuf.writeList 0 0 ((rleEncode s.symbols).flatMap pairToWords))
          (2 * (rleEncode s.symbols).length)).withE (emptyInput s.slen.toNat))
  | rleDec {pairs : List Run} (expansion : checkExpansion s = .ok pairs) :
      Completes s .rleDec
        ((s.withSymbols (s.sBuf.writeList 0 0 (rleDecode pairs)) (rleDecode pairs).length).withE
          (emptyInput s.plen.toNat))
  | hufBuild {pairs : List Run} (wellFormed : checkPairs s = .ok pairs)
      (lengths : checkCodeLengths pairs = .ok ()) :
      Completes s .hufBuild
        (((s.withTables (tableOf 0 (fun v => BitVec.ofNat 64 (symbolWeight pairs v)) (distinctSymbols pairs))
          (distinctSymbols pairs).length
          (tableOf CodeEntry.empty (fun v => codeEntry (codeString (pairCodes pairs) v)) (distinctSymbols pairs))).withE
            (emptyInput s.plen.toNat)).withS1 (singleSymbol (distinctSymbols pairs).length))
  | hufPack {bits : List Bool} (coded : encodeSymbols s.code 0 s.symbols = .ok bits) :
      Completes s .hufPack
        (((s.withStream (s.bs.writeList 0 0 (packBytes ((bits.length + 7) / 8) bits)) bits.length
          ((bits.length + 7) / 8)).withE (emptyInput s.slen.toNat)).withPB (partialByte bits.length))

theorem finish_cases {i : Instr} {s t : State} {r : Except Raise State} (h : finish i s r = .next t) :
    r = .ok t ∨ ∃ e, t = s.raise (encode i) e := by
  cases r with
  | ok u =>
    cases h
    exact .inl rfl
  | error e =>
    cases h
    exact .inr ⟨e, rfl⟩

/-- A command that gives a next state has completed, or has taken a fault. -/
theorem exec_cases {i : Instr} {s t : State} (h : exec i s = .next t) :
    Completes s i t ∨ ∃ r, t = s.raise (encode i) r := by
  cases i with
  | nop =>
    cases h
    exact .inl .nop
  | abort =>
    cases h
    exact .inl .abort
  | dctFwd rows cols =>
    refine (finish_cases h).imp_left fun h => ?_
    obtain ⟨_, hshape, ⟨⟩⟩ := except_bind_eq_ok.mp h
    obtain ⟨rfl, rfl⟩ := checkShape_eq_ok.mp hshape
    exact .dctFwd
  | dctInv rows cols =>
    refine (finish_cases h).imp_left fun h => ?_
    obtain ⟨_, hshape, ⟨⟩⟩ := except_bind_eq_ok.mp h
    obtain ⟨rfl, rfl⟩ := checkShape_eq_ok.mp hshape
    exact .dctInv
  | qntFwd rows cols =>
    refine (finish_cases h).imp_left fun h => ?_
    obtain ⟨_, hshape, h⟩ := except_bind_eq_ok.mp h
    obtain ⟨_, hprofile, h⟩ := except_bind_eq_ok.mp h
    obtain ⟨z, hz, ⟨⟩⟩ := except_bind_eq_ok.mp h
    obtain ⟨rfl, rfl⟩ := checkShape_eq_ok.mp hshape
    exact .qntFwd (checkProfile_eq_ok.mp hprofile) hz
  | qntInv rows cols =>
    refine (finish_cases h).imp_left fun h => ?_
    obtain ⟨_, hshape, h⟩ := except_bind_eq_ok.mp h
    obtain ⟨_, hprofile, ⟨⟩⟩ := except_bind_eq_ok.mp h
    obtain ⟨rfl, rfl⟩ := checkShape_eq_ok.mp hshape
    exact .qntInv (checkProfile_eq_ok.mp hprofile)
  | zzSer rows cols =>
    refine (finish_cases h).imp_left fun h => ?_
    obtain ⟨_, hshape, h⟩ := except_bind_eq_ok.mp h
    obtain ⟨_, hroom, ⟨⟩⟩ := except_bind_eq_ok.mp h
    obtain ⟨rfl, rfl⟩ := checkShape_eq_ok.mp hshape
    exact .zzSer (checkRoom_eq_ok.mp hroom)
  | zzDes n blk =>
    refine (finish_cases h).imp_left fun h => ?_
    obtain ⟨_, hlength, h⟩ := except_bind_eq_ok.mp h
    obtain ⟨_, hslice, ⟨⟩⟩ := except_bind_eq_ok.mp h
    obtain rfl := checkLength_eq_ok.mp hlength
    exact .zzDes (checkSlice_eq_ok.mp hslice)
  | rleEnc =>
    cases h
    exact .inl .rleEnc
  | rleDec =>
    refine (finish_cases h).imp_left fun h => ?_
    obtain ⟨pairs, hpairs, ⟨⟩⟩ := except_bind_eq_ok.mp h
    exact .rleDec hpairs
  | hufBuild =>
    refine (finish_cases h).imp_left fun h => ?_
    obtain ⟨pairs, hpairs, h⟩ := except_bind_eq_ok.mp h
    obtain ⟨_, hlengths, ⟨⟩⟩ := except_bind_eq_ok.mp h
    exact .hufBuild hpairs hlengths
  | hufPack =>
    refine (finish_cases h).imp_left fun h => ?_
    obtain ⟨bits, hbits, ⟨⟩⟩ := except_bind_eq_ok.mp h
    exact .hufPack hbits

theorem exists_finish_eq_next (i : Instr) (s : State) (r : Except Raise State) : ∃ t, finish i s r = .next t :=
  ⟨_, finish_eq_next i s r⟩

/-- Every command has a next state: its arm is a next state, or the end of a command. -/
theorem exists_exec_eq_next (i : Instr) (s : State) : ∃ t, exec i s = .next t := by
  cases i with
  | nop => exact ⟨s, rfl⟩
  | abort => exact ⟨s.aborted, rfl⟩
  | rleEnc => exact ⟨_, rfl⟩
  | _ => exact exists_finish_eq_next _ s _

/-- A command word has the effect of a completed command, that of `NOP` where the gate of R273 stops it, or takes a
fault. -/
theorem execute_cases {w : Word} {s t : State} (h : execute w s = .next t) :
    (∃ i, Completes s i t) ∨ ∃ word r, t = s.raise word r := by
  cases hf : s.faulted with
  | true =>
    rw [execute_faulted w hf] at h
    split at h <;> cases h
    · exact .inl ⟨_, .abort⟩
    · exact .inl ⟨_, .nop⟩
  | false =>
    cases hd : decode w with
    | ok i =>
      rw [execute_command hf hd] at h
      exact (exec_cases h).imp (⟨i, ·⟩) (⟨encode i, ·⟩)
    | error e =>
      rw [execute_illegal hf hd] at h
      cases h
      exact .inr ⟨w, _, rfl⟩

/-- A word that decodes matches the row of its command (R88). -/
theorem exists_row_of_decode {w : Word} {i : Instr} (h : decode w = .ok i) :
    ∃ r ∈ opRows, w &&& r.mask = r.pattern ∧ r.build w = i := by
  unfold decode at h
  split at h
  next r hr =>
    cases h
    exact ⟨r, List.mem_of_find?_eq_some hr, by simpa [OpRow.spells] using List.find?_some hr, rfl⟩
  next => cases h

/-- Only one word is `ABORT` (R87). -/
theorem eq_of_decode_abort {w : Word} (h : decode w = .ok .abort) : w = 0x01000000 := by
  obtain ⟨r, hr, hmatch, hbuild⟩ := exists_row_of_decode h
  simp only [opRows, rowN, rowB, rowZ, List.cons_append, List.nil_append, List.mem_cons, List.not_mem_nil,
    or_false] at hr
  rcases hr with rfl | rfl | rfl | rfl | rfl | rfl | rfl | rfl | rfl | rfl | rfl | rfl <;> cases hbuild
  exact (BitVec.and_allOnes (x := w)).symm.trans hmatch

end Sys2Proof.Machine
end

section
/-! PROOF. What a step can do (20_memory.md R62, R63, R71): one case for each way the port serves an action, and the
principle by which an invariant of the engine is kept. -/

namespace Sys2Proof.Machine

/-- `Stores s space i e t`: the port accepts the write of `e` to element `i` of `space`, and `t` holds it. -/
inductive Stores (s : State) : Space → Nat → Elem → State → Prop
  | tag (v : Word) : Stores s .reg 7 (.word v) { s with tag := v }
  | prof {v : Word} (unlocked : s.plock = false) (low : v.toNat < 256) (known : v.toNat < s.params.nprof) :
      Stores s .reg 8 (.word v) { s with prof := v.setWidth 8, plock := true }
  | slen {v : Word} (fits : v.toNat ≤ s.params.smax) : Stores s .reg 9 (.word v) { s with slen := v.setWidth 23 }
  | plen {v : Word} (fits : v.toNat ≤ s.params.pmax) : Stores s .reg 10 (.word v) { s with plen := v.setWidth 24 }
  | x (i : Nat) (v : F64) : Stores s .x i (.float v) { s with x := s.x.setIfInBounds i v }
  | f (i : Nat) (v : F64) : Stores s .f i (.float v) { s with f := s.f.setIfInBounds i v }
  | z (i : Nat) (v : Symbol) : Stores s .z i (.symbol v) { s with z := s.z.setIfInBounds i v }
  | sBuf {i : Nat} (v : Symbol) (inside : i < s.params.smax) :
      Stores s .s i (.symbol v) { s with sBuf := s.sBuf.write 0 i v }
  | pBuf {i : Nat} (v : Word) (inside : i < s.params.pmax) :
      Stores s .p i (.word v) { s with pBuf := s.pBuf.write 0 i v }

theorem stores_of_writeReg {s t : State} {i : Nat} {v : Word} (h : s.writeReg i v = some t) :
    Stores s .reg i (.word v) t := by
  unfold State.writeReg at h
  split at h
  · cases h
    exact .tag v
  · unfold State.writeProf at h
    split at h <;> cases h
    next hc => exact .prof hc.1 hc.2.1 hc.2.2
  · unfold State.writeSlen at h
    split at h <;> cases h
    next hc => exact .slen hc
  · unfold State.writePlen at h
    split at h <;> cases h
    next hc => exact .plen hc
  · cases h

theorem stores_of_hostWrite {s t : State} {space : Space} {i : Nat} {e : Elem} (h : hostWrite space i e s = some t) :
    Stores s space i e t := by
  unfold hostWrite at h
  split at h <;> [skip; cases h]
  next hi =>
    unfold State.store at h
    split at h
    · exact stores_of_writeReg h
    · cases h
      exact .x i _
    · cases h
      exact .f i _
    · cases h
      exact .z i _
    · cases h
      exact .sBuf _ hi
    · cases h
      exact .pBuf _ hi
    · cases h

theorem commandWord_eq_some {space : Space} {i : Nat} {e : Elem} {w : Word} (h : commandWord space i e = some w) :
    space = .reg ∧ i = 1 ∧ e = .word w := by
  unfold commandWord at h
  split at h <;> cases h
  exact ⟨rfl, rfl, rfl⟩

/-- The ways a step changes the state: an idle step, a reset, an answer alone (a read, or a refused write), a stored
write, a command. -/
inductive StepEffect (s : State) : State → Prop
  | idle (pending : s.pending = []) : StepEffect s s
  | reset {rest : List HostAction} (pending : s.pending = .reset :: rest) :
      StepEffect s (s.withPending rest).afterReset
  | answered {action : HostAction} {rest : List HostAction} (pending : s.pending = action :: rest) (a : HostAnswer) :
      StepEffect s ((s.withPending rest).answered a)
  | stored {space : Space} {i : Nat} {e : Elem} {rest : List HostAction} {t : State}
      (pending : s.pending = .write space i e :: rest) (stores : Stores (s.withPending rest) space i e t) :
      StepEffect s (t.answered .ok)
  | executed {w : Word} {rest : List HostAction} {t : State} (pending : s.pending = commandAction w :: rest)
      (executes : execute w (s.withPending rest) = .next t) : StepEffect s (t.answered .ok)

theorem eq_of_onNext_eq_next {o : Host.Outcome State Fault Refusal} {k : State → State} {t : State}
    (h : onNext o k = .next t) : ∃ u, o = .next u ∧ t = k u := by
  cases o <;> cases h
  exact ⟨_, rfl, rfl⟩

theorem step_effect {s t : State} (h : step s = .next t) : StepEffect s t := by
  cases hp : s.pending with
  | nil =>
    rw [step_idle hp] at h
    cases h
    exact .idle hp
  | cons a rest =>
    rw [step_serves hp] at h
    cases a with
    | read space i =>
      cases h
      exact .answered hp _
    | reset =>
      cases h
      exact .reset hp
    | write space i e =>
      cases hc : commandWord space i e with
      | some w =>
        obtain ⟨rfl, rfl, rfl⟩ := commandWord_eq_some hc
        obtain ⟨u, hu, rfl⟩ := eq_of_onNext_eq_next h
        exact .executed hp hu
      | none =>
        rw [perform_write hc, answerWrite] at h
        split at h <;> cases h
        next u hu => exact .stored hp (stores_of_hostWrite hu)
        next => exact .answered hp _

/-- What the serving of an action, a reset, a stored write, a completed command and a fault entry keep, every step keeps. -/
theorem step_keeps {P : State → Prop}
    (pending : ∀ {s} rest, P s → P (s.withPending rest))
    (answered : ∀ {s} a, P s → P (s.answered a))
    (reset : ∀ {s}, P s → P s.afterReset)
    (stores : ∀ {s space i e t}, P s → Stores s space i e t → P t)
    (completes : ∀ {s i t}, P s → Completes s i t → P t)
    (raise : ∀ {s} w r, P s → P (s.raise w r))
    {s t : State} (hs : P s) (h : step s = .next t) : P t := by
  cases step_effect h with
  | idle => exact hs
  | reset => exact reset (pending _ hs)
  | answered => exact answered _ (pending _ hs)
  | stored _ hstores => exact answered _ (stores (pending _ hs) hstores)
  | executed _ hexecutes =>
    obtain ⟨i, hcompletes⟩ | ⟨w, r, rfl⟩ := execute_cases hexecutes
    · exact answered _ (completes (pending _ hs) hcompletes)
    · exact answered _ (raise _ _ (pending _ hs))

end Sys2Proof.Machine
end

section
/-! PROOF. The registers and the queue of host actions (10_state.md R31, R35, R41 to R44, R54). -/

namespace Sys2Proof.Machine

/-- Settles O5: the step serves the write of `CMD`, and the gate is open. -/
theorem stepRunsTheDecodedCommand : Obligations.StepRunsTheDecodedCommand := by
  intro s w i rest hpending hfaulted hdecode
  obtain ⟨t, ht⟩ := exists_exec_eq_next i (s.withPending rest)
  have hstep : step s = onNext (execute w (s.withPending rest)) fun t => t.answered .ok := step_serves hpending
  rw [execute_command (s := s.withPending rest) hfaulted hdecode, ht] at hstep
  exact ⟨t, ht, hstep⟩

/-- Settles O14: the port compares the whole word; that it fits 8 bits is that bits 31:8 are 0. -/
theorem hostWritesOfRegisters : Obligations.HostWritesOfRegisters := by
  intro s v
  suffices hprof : s.writeProf v = _ from ⟨rfl, hprof, rfl, rfl⟩
  have hcond : (s.plock = false ∧ v.toNat < 256 ∧ v.toNat < s.params.nprof) ↔
      (s.plock = false ∧ v.toNat / 256 = 0 ∧ v.toNat % 256 < s.params.nprof) :=
    and_congr_right fun _ => by omega
  rw [State.writeProf, if_congr hcond rfl rfl]
  rfl

theorem toNat_statusWord (s : State) : s.statusWord.toNat = s.faulted.toNat + 2 * s.plock.toNat := by
  unfold State.statusWord
  cases s.faulted <;> cases s.plock <;> rfl

theorem toNat_flagsWord (s : State) :
    s.flagsWord.toNat = s.flagE.toNat + 2 * s.flagS1.toNat + 4 * s.flagPB.toNat := by
  unfold State.flagsWord
  cases s.flagE <;> cases s.flagS1 <;> cases s.flagPB <;> rfl

theorem readReg_afterReset (s : State) {i : Nat} (h : 1 ≤ i) (h' : i ≤ 14) : s.afterReset.readReg i = 0 := by
  have hstatus : s.afterReset.statusWord = 0 := BitVec.eq_of_toNat_eq (toNat_statusWord _)
  have hflags : s.afterReset.flagsWord = 0 := BitVec.eq_of_toNat_eq (toNat_flagsWord _)
  interval_cases i <;> simp [State.readReg, hstatus, hflags]

/-- Settles O9: the step serves the reset. -/
theorem resetSetsRegistersAndTables : Obligations.ResetSetsRegistersAndTables := by
  intro s rest hpending
  exact ⟨_, step_serves hpending, rfl, rfl, fun _ => readReg_afterReset _, rfl, rfl, rfl, fun _ => ⟨rfl, rfl⟩⟩

/-- Settles O15: the two bit registers by their bits, the narrow ones by zero extension, the others by definition. -/
theorem registersReadTheirFields : Obligations.RegistersReadTheirFields := fun s =>
  ⟨rfl, rfl, toNat_statusWord s, BitVec.toNat_setWidth_of_le (by decide), rfl, rfl, rfl, rfl,
    BitVec.toNat_setWidth_of_le (by decide), BitVec.toNat_setWidth_of_le (by decide),
    BitVec.toNat_setWidth_of_le (by decide), BitVec.toNat_setWidth_of_le (by decide), rfl, rfl, toNat_flagsWord s,
    rfl, rfl, rfl⟩

end Sys2Proof.Machine
end

section
/-! PROOF. What only a reset, or only `ABORT` and a reset, can change (10_state.md R42, R58). -/

namespace Sys2Proof.Machine

theorem Completes.plock_eq {s t : State} {i : Instr} (h : Completes s i t) : t.plock = s.plock := by
  cases h <;> simp

theorem Completes.prof_eq {s t : State} {i : Instr} (h : Completes s i t) : t.prof = s.prof := by
  cases h <;> simp

/-- No command word changes the profile, completing or not. -/
theorem execute_keeps_profile {w : Word} {s t : State} (h : execute w s = .next t) :
    t.plock = s.plock ∧ t.prof = s.prof := by
  obtain ⟨i, hi⟩ | ⟨word, r, rfl⟩ := execute_cases h
  · exact ⟨hi.plock_eq, hi.prof_eq⟩
  · exact ⟨rfl, rfl⟩

/-- A locked profile refuses the one write that could change it. -/
theorem Stores.keeps_locked_profile {s t : State} {space : Space} {i : Nat} {e : Elem} (h : Stores s space i e t)
    (hlocked : s.plock = true) : t.plock = s.plock ∧ t.prof = s.prof := by
  cases h with
  | prof unlocked => simp [hlocked] at unlocked
  | _ => exact ⟨rfl, rfl⟩

/-- Settles O16: of the five effects of a step only the reset touches a locked profile. -/
theorem onlyResetUnlocksTheProfile : Obligations.OnlyResetUnlocksTheProfile := by
  intro s t h hlocked
  have hkept : ∀ {u : State}, u.plock = s.plock ∧ u.prof = s.prof → u.plock = true ∧ u.prof = s.prof :=
    fun hu => ⟨hu.1.trans hlocked, hu.2⟩
  cases step_effect h with
  | idle => exact .inr (hkept ⟨rfl, rfl⟩)
  | reset pending => exact .inl (by rw [pending, List.head?_cons])
  | answered => exact .inr (hkept ⟨rfl, rfl⟩)
  | stored _ stores => exact .inr (hkept (stores.keeps_locked_profile hlocked))
  | executed _ executes =>
    obtain ⟨hplock, hprof⟩ := execute_keeps_profile executes
    exact .inr (hkept ⟨hplock, hprof⟩)

/-- `t` has the fault record of `s`. -/
def SameFaultRecord (s t : State) : Prop :=
  t.faulted = s.faulted ∧ t.err = s.err ∧ t.errCmd = s.errCmd ∧ t.errTag = s.errTag ∧ t.errInfo = s.errInfo

theorem Stores.sameFaultRecord {s t : State} {space : Space} {i : Nat} {e : Elem} (h : Stores s space i e t) :
    SameFaultRecord s t := by
  cases h <;> exact ⟨rfl, rfl, rfl, rfl, rfl⟩

/-- Settles O17: on a faulted engine a command word is `ABORT` or does nothing, and no host write reaches the record. -/
theorem faultRecordStaysUntilAbortOrReset : Obligations.FaultRecordStaysUntilAbortOrReset := by
  intro s t h hfaulted
  have hkept : ∀ {u : State}, SameFaultRecord s u → u.faulted = true ∧ u.err = s.err ∧ u.errCmd = s.errCmd ∧
      u.errTag = s.errTag ∧ u.errInfo = s.errInfo := fun ⟨hf, hrecord⟩ => ⟨hf.trans hfaulted, hrecord⟩
  cases step_effect h with
  | idle => exact .inr (.inr (hkept ⟨rfl, rfl, rfl, rfl, rfl⟩))
  | reset pending => exact .inl (by rw [pending, List.head?_cons])
  | answered => exact .inr (.inr (hkept ⟨rfl, rfl, rfl, rfl, rfl⟩))
  | stored _ stores => exact .inr (.inr (hkept stores.sameFaultRecord))
  | @executed _ rest _ pending executes =>
    rw [execute_faulted (s := s.withPending rest) _ hfaulted] at executes
    split at executes
    next habort =>
      rw [pending, eq_of_decode_abort habort]
      exact .inr (.inl rfl)
    next =>
      cases executes
      exact .inr (.inr (hkept ⟨rfl, rfl, rfl, rfl, rfl⟩))

end Sys2Proof.Machine
end

section
/-! PROOF. The pieces of `HUF.BUILD`'s tables: the distinct symbols (44_huffman.md R183, R187), a table over a list of symbols,
and the entry of a code string (R191). -/

namespace Sys2Proof.Machine

/-! ### The distinct symbols -/

theorem mem_insertSymbol {u v : Symbol} {us : List Symbol} : u ∈ insertSymbol v us ↔ u = v ∨ u ∈ us := by
  induction us with
  | nil => simp [insertSymbol]
  | cons w us ih =>
    unfold insertSymbol
    split
    · exact List.mem_cons
    · split
      next hvw => simp [hvw]
      next => rw [List.mem_cons, ih, List.mem_cons, or_left_comm]

theorem ascending_insertSymbol (v : Symbol) {us : List Symbol} (h : us.Pairwise fun a b => a.toInt < b.toInt) :
    (insertSymbol v us).Pairwise fun a b => a.toInt < b.toInt := by
  induction us with
  | nil => exact List.pairwise_singleton _ _
  | cons w us ih =>
    obtain ⟨hw, hus⟩ := List.pairwise_cons.mp h
    unfold insertSymbol
    split
    next hvw =>
      refine List.pairwise_cons.mpr ⟨fun u hu => ?_, h⟩
      obtain rfl | hu := List.mem_cons.mp hu
      · exact hvw
      · exact hvw.trans (hw u hu)
    next hvw =>
      split
      next => exact h
      next hne =>
        refine List.pairwise_cons.mpr ⟨fun u hu => ?_, ih hus⟩
        obtain rfl | hu := mem_insertSymbol.mp hu
        · exact lt_of_le_of_ne (not_lt.mp hvw) fun heq => hne (BitVec.eq_of_toInt_eq heq.symm)
        · exact hw u hu

theorem mem_distinctSymbols {pairs : List Run} {v : Symbol} : v ∈ distinctSymbols pairs ↔ ∃ p ∈ pairs, p.2 = v := by
  induction pairs with
  | nil => simp [distinctSymbols]
  | cons p pairs ih =>
    have hmem : v ∈ distinctSymbols (p :: pairs) ↔ v = p.2 ∨ v ∈ distinctSymbols pairs := mem_insertSymbol
    rw [hmem, ih, List.exists_mem_cons_iff, eq_comm]

theorem ascending_distinctSymbols (pairs : List Run) :
    (distinctSymbols pairs).Pairwise fun u v => u.toInt < v.toInt := by
  induction pairs with
  | nil => exact List.Pairwise.nil
  | cons p pairs ih => exact ascending_insertSymbol p.2 ih

theorem nodup_distinctSymbols (pairs : List Run) : (distinctSymbols pairs).Nodup :=
  (ascending_distinctSymbols pairs).imp fun h heq => absurd (congrArg BitVec.toInt heq) h.ne

theorem symbolIndex_injective : Function.Injective symbolIndex := fun _ _ => BitVec.eq_of_toNat_eq

theorem symbolIndex_lt (v : Symbol) : symbolIndex v < 65536 := v.isLt

theorem length_distinctSymbols_le (pairs : List Run) : (distinctSymbols pairs).length ≤ 65536 := by
  have hinj : Function.Injective (BitVec.toFin (w := 16)) := fun _ _ => BitVec.eq_of_toFin_eq
  have hcard := ((nodup_distinctSymbols pairs).map hinj).length_le_card
  rwa [List.length_map, Fintype.card_fin] at hcard

/-! ### Tables over symbols -/

section Table

variable {α : Type}

/-- What a read gives is listed, unless it is what an unlisted index reads as. -/
theorem Memory.read_eq_default_or_mem (d : α) (m : Memory α) (i : Nat) :
    Memory.read d m i = d ∨ (i, Memory.read d m i) ∈ m := by
  induction m with
  | nil => exact .inl rfl
  | cons c m ih =>
    rw [Memory.read_cons]
    split
    next hc => exact .inr (List.mem_cons.mpr (.inl (Prod.ext hc.symm rfl)))
    next => exact ih.imp_right (List.mem_cons_of_mem c)

variable [DecidableEq α] {d : α} {g : Symbol → α}

theorem Memory.mem_write {m : Memory α} {i : Nat} {v : α} {c : Nat × α} (h : c ∈ Memory.write d m i v) :
    c = (i, v) ∨ c ∈ m := by
  unfold Memory.write Memory.writeList at h
  rw [List.append_assoc, List.mem_append, List.mem_append] at h
  obtain h | h | h := h
  · exact .inr (List.mem_filter.mp h).1
  · have hcells : Memory.cells d i [v] = if v = d then [] else [(i, v)] := by
      rw [Memory.cells_cons]
      exact List.append_nil _
    rw [hcells] at h
    split at h
    · cases h
    · exact .inl (List.mem_singleton.mp h)
  · exact .inr (List.mem_filter.mp h).1

theorem tableOf_concat (d : α) (g : Symbol → α) (syms : List Symbol) (v : Symbol) :
    tableOf d g (syms ++ [v]) = Memory.write d (tableOf d g syms) (symbolIndex v) (g v) := List.foldl_concat ..

theorem wf_tableOf (d : α) (g : Symbol → α) (syms : List Symbol) : Memory.wf d (tableOf d g syms) := by
  induction syms using List.reverseRecOn with
  | nil => exact ⟨List.Pairwise.nil, by simp [tableOf]⟩
  | append_singleton syms v ih =>
    rw [tableOf_concat]
    exact Memory.wf_write d _ _ _ ih

theorem mem_tableOf {syms : List Symbol} {c : Nat × α} (h : c ∈ tableOf d g syms) :
    ∃ v ∈ syms, c = (symbolIndex v, g v) := by
  induction syms using List.reverseRecOn with
  | nil => cases h
  | append_singleton syms v ih =>
    rw [tableOf_concat] at h
    obtain hc | hc := Memory.mem_write h
    · exact ⟨v, by simp, hc⟩
    · obtain ⟨u, hu, hc⟩ := ih hc
      exact ⟨u, List.mem_append_left _ hu, hc⟩

theorem below_tableOf (d : α) (g : Symbol → α) (syms : List Symbol) : Memory.below 65536 (tableOf d g syms) := by
  intro c hc
  obtain ⟨v, -, rfl⟩ := mem_tableOf hc
  exact symbolIndex_lt v

theorem read_tableOf (d : α) (g : Symbol → α) (syms : List Symbol) (v : Symbol) :
    Memory.read d (tableOf d g syms) (symbolIndex v) = if v ∈ syms then g v else d := by
  induction syms using List.reverseRecOn with
  | nil => rfl
  | append_singleton syms u ih =>
    rw [tableOf_concat, Memory.read_write, ih]
    by_cases huv : v = u
    · simp [huv]
    · simp [huv, symbolIndex_injective.ne huv]

/-- A property that the listed symbols' elements have, and the default has not, holds at as many indices as there are
listed symbols. -/
theorem card_filter_tableOf {p : α → Prop} [DecidablePred p] {syms : List Symbol} (hnodup : syms.Nodup)
    (hlisted : ∀ v ∈ syms, p (g v)) (hdefault : ¬ p d) :
    ((Finset.range 65536).filter fun i => p (Memory.read d (tableOf d g syms) i)).card = syms.length := by
  have himage : ((Finset.range 65536).filter fun i => p (Memory.read d (tableOf d g syms) i)) =
      syms.toFinset.image symbolIndex := by
    ext i
    simp only [Finset.mem_filter, Finset.mem_range, Finset.mem_image, List.mem_toFinset]
    constructor
    · rintro ⟨hi, hp⟩
      have hindex : symbolIndex (BitVec.ofNat 16 i) = i := (BitVec.toNat_ofNat i 16).trans (Nat.mod_eq_of_lt hi)
      rw [← hindex, read_tableOf] at hp
      split at hp
      next hmem => exact ⟨_, hmem, hindex⟩
      next => exact absurd hp hdefault
    · rintro ⟨v, hv, rfl⟩
      rw [read_tableOf, if_pos hv]
      exact ⟨symbolIndex_lt v, hlisted v hv⟩
  rw [himage, Finset.card_image_of_injective _ symbolIndex_injective, List.toFinset_card_of_nodup hnodup]

end Table

/-! ### Code entries -/

@[simp] theorem bitsValue_nil : bitsValue [] = 0 := rfl

theorem bitsValue_concat (b : List Bool) (x : Bool) : bitsValue (b ++ [x]) = Nat.bit x (bitsValue b) := by
  rw [Nat.bit_val, bitsValue, List.foldl_append]
  rfl

theorem bitsValue_lt (b : List Bool) : bitsValue b < 2 ^ b.length := by
  induction b using List.reverseRecOn with
  | nil => decide
  | append_singleton b x ih =>
    rw [bitsValue_concat, List.length_append, List.length_singleton, pow_succ, Nat.bit_val]
    cases x <;> simp <;> omega

/-- The first bit of a string is the most significant of its value. -/
theorem testBit_bitsValue (b : List Bool) {m : Nat} (h : m < b.length) :
    (bitsValue b).testBit (b.length - 1 - m) = b[m] := by
  induction b using List.reverseRecOn with
  | nil => simp at h
  | append_singleton b x ih =>
    rw [bitsValue_concat, List.length_append, List.length_singleton, Nat.add_sub_cancel]
    obtain hm | rfl : m < b.length ∨ m = b.length := by
      rw [List.length_append, List.length_singleton] at h
      omega
    · rw [show b.length - m = b.length - 1 - m + 1 by omega, Nat.testBit_bit_succ, ih hm, List.getElem_append_left hm]
    · rw [Nat.sub_self, Nat.testBit_bit_zero, List.getElem_append_right le_rfl]
      simp

theorem len_codeEntry {b : List Bool} (h : b.length ≤ 32) : (codeEntry b).len.toNat = b.length := by
  rw [codeEntry, BitVec.toNat_ofNat]
  omega

theorem bits_codeEntry {b : List Bool} (h : b.length ≤ 32) : (codeEntry b).bits.toNat = bitsValue b := by
  have hlt := (bitsValue_lt b).trans_le (Nat.pow_le_pow_right two_pos h)
  rw [codeEntry, BitVec.toNat_ofNat, Nat.mod_eq_of_lt hlt]

@[simp] theorem length_string (e : CodeEntry) : e.string.length = e.len.toNat := by simp [CodeEntry.string]

/-- The entry of a code string that fits `CLMAX` holds that string. -/
theorem string_codeEntry {b : List Bool} (h : b.length ≤ 32) : (codeEntry b).string = b := by
  refine List.ext_getElem (by rw [length_string, len_codeEntry h]) fun m _ hm => ?_
  simp only [CodeEntry.string, List.getElem_map, List.getElem_range, len_codeEntry h]
  rw [← BitVec.testBit_toNat, bits_codeEntry h, testBit_bitsValue b hm]

theorem checkCodeLengths_eq_ok {pairs : List Run} {u : Unit} (h : checkCodeLengths pairs = .ok u) :
    ∀ v ∈ distinctSymbols pairs, (codeString (pairCodes pairs) v).length ≤ 32 := by
  unfold checkCodeLengths at h
  split at h
  · cases h
  next hnone =>
    intro v hv
    exact not_lt.mp fun hlt => List.find?_eq_none.mp hnone v hv (decide_eq_true hlt)

end Sys2Proof.Machine
end

section
/-! PROOF. How much the sequence commands read and write: counts of a checked pair list (43_rle.md R164, R166), runs (R161),
code bits (44_huffman.md R200). -/

namespace Sys2Proof.Machine

theorem readPair_eq_ok {k : Nat} {count value : Word} {p : Run} (h : readPair k count value = .ok p) :
    count ≠ 0 ∧ p = (count.toNat, symbolOfWord value) := by
  unfold readPair at h
  split at h
  · cases h
  next hcount =>
    split at h <;> cases h
    exact ⟨hcount, rfl⟩

theorem scanPairs_cons_eq_ok {k : Nat} {count value : Word} {rest : List Word} {pairs : List Run}
    (h : scanPairs k (count :: value :: rest) = .ok pairs) :
    ∃ p ps, readPair k count value = .ok p ∧ scanPairs (k + 2) rest = .ok ps ∧ pairs = p :: ps := by
  obtain ⟨p, hp, h⟩ := except_bind_eq_ok.mp h
  obtain ⟨ps, hps, ⟨⟩⟩ := except_bind_eq_ok.mp h
  exact ⟨p, ps, hp, hps, rfl⟩

theorem scanExpansion_cons_eq_ok {smax k total : Nat} {count value : Word} {rest : List Word} {pairs : List Run}
    (h : scanExpansion smax k total (count :: value :: rest) = .ok pairs) :
    ∃ p ps, readPair k count value = .ok p ∧ total + p.1 ≤ smax ∧
      scanExpansion smax (k + 2) (total + p.1) rest = .ok ps ∧ pairs = p :: ps := by
  obtain ⟨p, hp, h⟩ := except_bind_eq_ok.mp h
  split at h
  · cases h
  next hle =>
    obtain ⟨ps, hps, ⟨⟩⟩ := except_bind_eq_ok.mp h
    exact ⟨p, ps, hp, not_lt.mp hle, hps, rfl⟩

/-- A checked pair list has at most one pair for two words, and its counts are those of a nonzero word. -/
theorem scanPairs_counts : ∀ {k : Nat} {words : List Word} {pairs : List Run}, scanPairs k words = .ok pairs →
    2 * pairs.length ≤ words.length ∧ ∀ p ∈ pairs, 1 ≤ p.1 ∧ p.1 < 2 ^ 32
  | k, count :: value :: rest, pairs, h => by
    obtain ⟨p, ps, hp, hps, rfl⟩ := scanPairs_cons_eq_ok h
    obtain ⟨hlength, hcounts⟩ := scanPairs_counts hps
    obtain ⟨hcount, rfl⟩ := readPair_eq_ok hp
    refine ⟨by simp only [List.length_cons]; omega, List.forall_mem_cons.mpr ⟨⟨?_, count.isLt⟩, hcounts⟩⟩
    exact Nat.pos_of_ne_zero fun h0 => hcount (BitVec.eq_of_toNat_eq h0)
  | _, [_], pairs, h => by
    cases h
    simp
  | _, [], pairs, h => by
    cases h
    simp

/-- The running total of `RLE.DEC` stays within `SMAX`. -/
theorem scanExpansion_total : ∀ {smax k total : Nat} {words : List Word} {pairs : List Run}, total ≤ smax →
    scanExpansion smax k total words = .ok pairs → total + (pairs.map Prod.fst).sum ≤ smax
  | smax, k, total, count :: value :: rest, pairs, _, h => by
    obtain ⟨p, ps, -, hle, hps, rfl⟩ := scanExpansion_cons_eq_ok h
    have htotal := scanExpansion_total hle hps
    rw [List.map_cons, List.sum_cons]
    omega
  | _, _, _, [_], pairs, hle, h => by
    cases h
    exact hle
  | _, _, _, [], pairs, hle, h => by
    cases h
    exact hle

theorem length_rleDecode (pairs : List Run) : (rleDecode pairs).length = (pairs.map Prod.fst).sum := by
  simp [rleDecode, List.length_flatMap]

theorem length_rleDecode_le {s : State} {pairs : List Run} (h : checkExpansion s = .ok pairs) :
    (rleDecode pairs).length ≤ s.params.smax := by
  obtain ⟨_, -, hscan⟩ := except_bind_eq_ok.mp h
  rw [length_rleDecode]
  exact (Nat.zero_add _).symm.trans_le (scanExpansion_total (Nat.zero_le _) hscan)

theorem length_pushSymbol_le (v : Symbol) (runs : List Run) : (pushSymbol v runs).length ≤ runs.length + 1 := by
  unfold pushSymbol
  split
  · split <;> simp
  · simp

theorem length_rleEncode_le (l : List Symbol) : (rleEncode l).length ≤ l.length := by
  induction l with
  | nil => exact le_rfl
  | cons v l ih => exact (length_pushSymbol_le v _).trans (Nat.succ_le_succ ih)

theorem length_flatMap_pairToWords (pairs : List Run) : (pairs.flatMap pairToWords).length = 2 * pairs.length := by
  simp [List.length_flatMap, pairToWords, mul_comm]

theorem len_codeOf_le {table : Memory CodeEntry} {n : Nat} (h : ∀ c ∈ table, c.2.len.toNat ≤ n) (v : Symbol) :
    (codeOf table v).len.toNat ≤ n := by
  obtain hempty | hmem := Memory.read_eq_default_or_mem CodeEntry.empty table (symbolIndex v)
  · rw [codeOf, hempty]
    exact Nat.zero_le n
  · exact h _ hmem

/-- Packing gives at most as many bits for a symbol as the longest code has. -/
theorem length_encodeSymbols_le {table : Memory CodeEntry} {n : Nat} (h : ∀ c ∈ table, c.2.len.toNat ≤ n)
    {i : Nat} {syms : List Symbol} {bits : List Bool} (hbits : encodeSymbols table i syms = .ok bits) :
    bits.length ≤ syms.length * n := by
  induction syms generalizing i bits with
  | nil =>
    cases hbits
    exact Nat.zero_le _
  | cons v syms ih =>
    unfold encodeSymbols at hbits
    split at hbits
    · cases hbits
    obtain ⟨rest, hrest, ⟨⟩⟩ := except_bind_eq_ok.mp hbits
    rw [List.length_append, length_string, List.length_cons, Nat.succ_mul, add_comm]
    exact Nat.add_le_add (ih hrest) (len_codeOf_le h v)

@[simp] theorem length_packBytes (n : Nat) (b : List Bool) : (packBytes n b).length = n := by
  induction n generalizing b with
  | zero => rfl
  | succ n ih => exact congrArg Nat.succ (ih _)

end Sys2Proof.Machine
end

section
/-! PROOF. The ranges of the registers (10_state.md R33, R57): they hold after reset, and each update that a step makes keeps
them. -/

namespace Sys2Proof.Machine

namespace RegisterRanges

variable {s : State}

theorem length_symbols_le (h : RegisterRanges s) : s.symbols.length ≤ s.params.smax :=
  (length_symbols s).trans_le h.slen

/-- The code bits of the symbol sequence fit the capacity of `BS`. -/
theorem length_bits_le (h : RegisterRanges s) {bits : List Bool} (hbits : encodeSymbols s.code 0 s.symbols = .ok bits) :
    bits.length ≤ s.params.smax * Config.clMax :=
  (length_encodeSymbols_le h.codeLen hbits).trans (Nat.mul_le_mul_right _ h.length_symbols_le)

/-- The words of the maximal runs fit the capacity of `P`. -/
theorem length_runs_le (h : RegisterRanges s) : 2 * (rleEncode s.symbols).length ≤ s.params.pmax :=
  Nat.mul_le_mul_left 2 ((length_rleEncode_le _).trans h.length_symbols_le)

theorem withSymbols (h : RegisterRanges s) (buf : Memory Symbol) {n : Nat} (hn : n ≤ s.params.smax) :
    RegisterRanges (s.withSymbols buf n) :=
  { h with slen := (BitVec.toNat_ofNat n 23).trans_le ((Nat.mod_le n _).trans hn) }

theorem withPairs (h : RegisterRanges s) (buf : Memory Word) {n : Nat} (hn : n ≤ s.params.pmax) :
    RegisterRanges (s.withPairs buf n) :=
  { h with plen := (BitVec.toNat_ofNat n 24).trans_le ((Nat.mod_le n _).trans hn) }

theorem withTables (h : RegisterRanges s) (w : Memory Weight) {n : Nat} {c : Memory CodeEntry} (hn : n ≤ 65536)
    (hc : ∀ e ∈ c, e.2.len.toNat ≤ Config.clMax) : RegisterRanges (s.withTables w n c) :=
  { h with
    nsym := (BitVec.toNat_ofNat n 17).trans_le ((Nat.mod_le n _).trans hn)
    codeLen := hc }

theorem withStream (h : RegisterRanges s) (buf : Memory Byte) {n : Nat} (hn : n ≤ s.params.smax * Config.clMax) :
    RegisterRanges (s.withStream buf n ((n + 7) / 8)) := by
  have hlt : n < 2 ^ 32 := by
    have hsmax := h.params.smax_high
    unfold Config.clMax at hn
    omega
  have hbits : (BitVec.ofNat 32 n).toNat = n := (BitVec.toNat_ofNat n 32).trans (Nat.mod_eq_of_lt hlt)
  have hbytes : (BitVec.ofNat 32 ((n + 7) / 8)).toNat = (n + 7) / 8 :=
    (BitVec.toNat_ofNat _ 32).trans (Nat.mod_eq_of_lt (by omega))
  exact { h with
    bitLen := hbits.trans_le hn
    bsLen := hbytes.trans (by rw [State.withStream_bitLen, hbits]) }

theorem withF (h : RegisterRanges s) (v : Block F64) : RegisterRanges (s.withF v) := { h with }
theorem withX (h : RegisterRanges s) (v : Block F64) : RegisterRanges (s.withX v) := { h with }
theorem withZ (h : RegisterRanges s) (v : Block Symbol) : RegisterRanges (s.withZ v) := { h with }
theorem drawn (h : RegisterRanges s) (n : Nat) : RegisterRanges (s.drawn n) := { h with }
theorem withE (h : RegisterRanges s) (b : Bool) : RegisterRanges (s.withE b) := { h with }
theorem withS1 (h : RegisterRanges s) (b : Bool) : RegisterRanges (s.withS1 b) := { h with }
theorem withPB (h : RegisterRanges s) (b : Bool) : RegisterRanges (s.withPB b) := { h with }
theorem answered (h : RegisterRanges s) (a : HostAnswer) : RegisterRanges (s.answered a) := { h with }
theorem withPending (h : RegisterRanges s) (rest : List HostAction) : RegisterRanges (s.withPending rest) := { h with }

theorem raise (h : RegisterRanges s) (w : Word) (r : Raise) : RegisterRanges (s.raise w r) :=
  { h with
    err := by
      rw [State.raise_err]
      cases r.cause <;> decide
    faulted := by
      rw [State.raise_err, State.raise_faulted]
      cases r.cause <;> decide }

theorem aborted (h : RegisterRanges s) : RegisterRanges s.aborted :=
  { h with
    slen := Nat.zero_le _
    plen := Nat.zero_le _
    bitLen := Nat.zero_le _
    bsLen := by simp
    nsym := Nat.zero_le _
    err := Nat.zero_le _
    faulted := by simp
    codeLen := by simp }

theorem powerOn {c : Params} (h : LegalParams c) : RegisterRanges (State.powerOn c) where
  params := h
  slen := Nat.zero_le _
  plen := Nat.zero_le _
  bitLen := Nat.zero_le _
  bsLen := by simp [State.powerOn]
  nsym := Nat.zero_le _
  prof := two_pos.trans_le h.two_profiles
  err := Nat.zero_le _
  faulted := by simp [State.powerOn]
  codeLen := by simp [State.powerOn]

theorem afterReset (h : RegisterRanges s) : RegisterRanges s.afterReset := { powerOn h.params with }

theorem stores (h : RegisterRanges s) {space : Space} {i : Nat} {e : Elem} {t : State} (ht : Stores s space i e t) :
    RegisterRanges t := by
  cases ht with
  | prof _ _ known => exact { h with prof := (BitVec.toNat_setWidth _ _).trans_lt ((Nat.mod_le _ _).trans_lt known) }
  | slen fits => exact { h with slen := (BitVec.toNat_setWidth _ _).trans_le ((Nat.mod_le _ _).trans fits) }
  | plen fits => exact { h with plen := (BitVec.toNat_setWidth _ _).trans_le ((Nat.mod_le _ _).trans fits) }
  | _ => exact { h with }

theorem completes (h : RegisterRanges s) {i : Instr} {t : State} (ht : Completes s i t) : RegisterRanges t := by
  cases ht with
  | nop => exact h
  | abort => exact h.aborted
  | dctFwd => exact (h.withF _).drawn _
  | dctInv => exact (h.withX _).drawn _
  | qntFwd => exact h.withZ _
  | qntInv => exact h.withF _
  | zzSer room => exact h.withSymbols _ room
  | zzDes => exact h.withZ _
  | rleEnc => exact (h.withPairs _ h.length_runs_le).withE _
  | rleDec expansion => exact (h.withSymbols _ (length_rleDecode_le expansion)).withE _
  | @hufBuild pairs _ lengths =>
    refine ((h.withTables _ (length_distinctSymbols_le pairs) fun e he => ?_).withE _).withS1 _
    obtain ⟨v, hv, rfl⟩ := mem_tableOf he
    have hlength := checkCodeLengths_eq_ok lengths v hv
    exact (len_codeEntry hlength).trans_le hlength
  | hufPack coded => exact ((h.withStream _ (h.length_bits_le coded)).withE _).withPB _

end RegisterRanges

/-- Settles O20: each update of a step keeps the ranges; the lengths by the checks of the command that writes them. -/
theorem stepKeepsRegisterRanges : Obligations.StepKeepsRegisterRanges := fun _ _ hs h =>
  step_keeps (fun rest hs => hs.withPending rest) (fun a hs => hs.answered a) (fun hs => hs.afterReset)
    (fun hs ht => hs.stores ht) (fun hs ht => hs.completes ht) (fun w r hs => hs.raise w r) hs h

end Sys2Proof.Machine
end

section
/-! PROOF. The canonical form of the buffers and tables and their capacities (20_memory.md R60): they hold after reset, and each
update that a step makes keeps them. -/

namespace Sys2Proof.Machine

/-- A stream buffer is in canonical form and inside its capacity. -/
abbrev Memory.Canonical {α : Type} (d : α) (capacity : Nat) (m : Memory α) : Prop :=
  Memory.wf d m ∧ Memory.below capacity m

theorem Memory.Canonical.nil {α : Type} (d : α) (capacity : Nat) : Memory.Canonical d capacity ([] : Memory α) :=
  ⟨⟨List.Pairwise.nil, by simp⟩, by simp⟩

theorem Memory.Canonical.writeList {α : Type} [DecidableEq α] {d : α} {capacity : Nat} {m : Memory α}
    (h : Memory.Canonical d capacity m) {a : Nat} {vals : List α} (hfits : a + vals.length ≤ capacity) :
    Memory.Canonical d capacity (Memory.writeList d m a vals) :=
  ⟨Memory.wf_writeList d m a vals h.1, Memory.below_writeList d m a vals capacity h.2 hfits⟩

theorem Memory.Canonical.tableOf {α : Type} [DecidableEq α] (d : α) (g : Symbol → α) (syms : List Symbol) :
    Memory.Canonical d 65536 (tableOf d g syms) :=
  ⟨wf_tableOf d g syms, below_tableOf d g syms⟩

namespace BuffersCanonical

variable {s : State}

theorem withSymbols (h : BuffersCanonical s) {a : Nat} {vals : List Symbol} (n : Nat)
    (hfits : a + vals.length ≤ s.params.smax) : BuffersCanonical (s.withSymbols (s.sBuf.writeList 0 a vals) n) :=
  { h with sBuf := Memory.Canonical.writeList h.sBuf hfits }

theorem withPairs (h : BuffersCanonical s) {a : Nat} {vals : List Word} (n : Nat)
    (hfits : a + vals.length ≤ s.params.pmax) : BuffersCanonical (s.withPairs (s.pBuf.writeList 0 a vals) n) :=
  { h with pBuf := Memory.Canonical.writeList h.pBuf hfits }

theorem withStream (h : BuffersCanonical s) {a : Nat} {vals : List Byte} (n k : Nat)
    (hfits : a + vals.length ≤ s.params.bsmax) : BuffersCanonical (s.withStream (s.bs.writeList 0 a vals) n k) :=
  { h with bs := Memory.Canonical.writeList h.bs hfits }

theorem withTables (h : BuffersCanonical s) {w : Memory Weight} (n : Nat) {c : Memory CodeEntry}
    (hw : Memory.Canonical 0 65536 w) (hc : Memory.Canonical CodeEntry.empty 65536 c) :
    BuffersCanonical (s.withTables w n c) :=
  { h with
    freq := hw
    code := hc }

theorem withF (h : BuffersCanonical s) (v : Block F64) : BuffersCanonical (s.withF v) := { h with }
theorem withX (h : BuffersCanonical s) (v : Block F64) : BuffersCanonical (s.withX v) := { h with }
theorem withZ (h : BuffersCanonical s) (v : Block Symbol) : BuffersCanonical (s.withZ v) := { h with }
theorem drawn (h : BuffersCanonical s) (n : Nat) : BuffersCanonical (s.drawn n) := { h with }
theorem withE (h : BuffersCanonical s) (b : Bool) : BuffersCanonical (s.withE b) := { h with }
theorem withS1 (h : BuffersCanonical s) (b : Bool) : BuffersCanonical (s.withS1 b) := { h with }
theorem withPB (h : BuffersCanonical s) (b : Bool) : BuffersCanonical (s.withPB b) := { h with }
theorem answered (h : BuffersCanonical s) (a : HostAnswer) : BuffersCanonical (s.answered a) := { h with }
theorem withPending (h : BuffersCanonical s) (rest : List HostAction) : BuffersCanonical (s.withPending rest) :=
  { h with }
theorem raise (h : BuffersCanonical s) (w : Word) (r : Raise) : BuffersCanonical (s.raise w r) := { h with }

theorem aborted (h : BuffersCanonical s) : BuffersCanonical s.aborted :=
  { h with
    freq := Memory.Canonical.nil _ _
    code := Memory.Canonical.nil _ _ }

theorem powerOn (c : Params) : BuffersCanonical (State.powerOn c) where
  sBuf := Memory.Canonical.nil _ _
  pBuf := Memory.Canonical.nil _ _
  bs := Memory.Canonical.nil _ _
  freq := Memory.Canonical.nil _ _
  code := Memory.Canonical.nil _ _

theorem afterReset (s : State) : BuffersCanonical s.afterReset := { powerOn s.params with }

theorem stores (h : BuffersCanonical s) {space : Space} {i : Nat} {e : Elem} {t : State}
    (ht : Stores s space i e t) : BuffersCanonical t := by
  cases ht with
  | sBuf _ inside => exact { h with sBuf := Memory.Canonical.writeList h.sBuf inside }
  | pBuf _ inside => exact { h with pBuf := Memory.Canonical.writeList h.pBuf inside }
  | _ => exact { h with }

/-- A command keeps the buffers canonical; the registers' ranges bound what `RLE.ENC` and `HUF.PACK` write. -/
theorem completes (h : BuffersCanonical s) (hranges : RegisterRanges s) {i : Instr} {t : State}
    (ht : Completes s i t) : BuffersCanonical t := by
  cases ht with
  | nop => exact h
  | abort => exact h.aborted
  | dctFwd => exact (h.withF _).drawn _
  | dctInv => exact (h.withX _).drawn _
  | qntFwd => exact h.withZ _
  | qntInv => exact h.withF _
  | zzSer room => exact h.withSymbols _ (by rwa [length_serialize])
  | zzDes => exact h.withZ _
  | rleEnc =>
    refine (h.withPairs _ ?_).withE _
    rw [Nat.zero_add, length_flatMap_pairToWords]
    exact hranges.length_runs_le
  | rleDec expansion =>
    refine (h.withSymbols _ ?_).withE _
    rw [Nat.zero_add]
    exact length_rleDecode_le expansion
  | hufBuild =>
    exact ((h.withTables _ (Memory.Canonical.tableOf _ _ _) (Memory.Canonical.tableOf _ _ _)).withE _).withS1 _
  | hufPack coded =>
    refine ((h.withStream _ _ ?_).withE _).withPB _
    rw [Nat.zero_add, length_packBytes]
    exact Nat.div_le_div_right (Nat.add_le_add_right (hranges.length_bits_le coded) 7)

end BuffersCanonical

/-- Settles O21: each update of a step keeps the buffers canonical, the registers' ranges beside them. -/
theorem stepKeepsBuffersCanonical : Obligations.StepKeepsBuffersCanonical := fun _ _ hranges hs h =>
  (step_keeps (P := fun s => RegisterRanges s ∧ BuffersCanonical s)
    (fun rest ⟨hr, hb⟩ => ⟨hr.withPending rest, hb.withPending rest⟩)
    (fun a ⟨hr, hb⟩ => ⟨hr.answered a, hb.answered a⟩)
    (fun {s} ⟨hr, _⟩ => ⟨hr.afterReset, BuffersCanonical.afterReset s⟩)
    (fun ⟨hr, hb⟩ ht => ⟨hr.stores ht, hb.stores ht⟩)
    (fun ⟨hr, hb⟩ ht => ⟨hr.completes ht, hb.completes hr ht⟩)
    (fun w r ⟨hr, hb⟩ => ⟨hr.raise w r, hb.raise w r⟩)
    ⟨hranges, hs⟩ h).2

end Sys2Proof.Machine
end

section
/-! PROOF. The tree of a pair list has its distinct symbols as leaves, and its codes are nonempty and none begins
another (44_huffman.md R188, R189, R196). -/

namespace Sys2Proof.Machine

/-- The symbols of the leaves, left to right. -/
def HufTree.symbols : HufTree → List Symbol
  | .leaf v _ _ => [v]
  | .node _ _ l r => l.symbols ++ r.symbols

/-! ### Merging keeps the symbols -/

theorem popLowest_perm (a : HufTree) (rest : List HufTree) :
    ((popLowest a rest).1 :: (popLowest a rest).2).Perm (a :: rest) := by
  induction rest generalizing a with
  | nil => exact .refl _
  | cons b rest ih =>
    rw [popLowest]
    split
    · exact (List.Perm.swap ..).trans ((ih b).cons a)
    · exact ((List.Perm.swap ..).trans ((ih a).cons b)).trans (List.Perm.swap ..)

theorem mergeLowest_symbols (next : Nat) (a : HufTree) (rest : List HufTree) :
    (((mergeLowest next a rest).1 :: (mergeLowest next a rest).2).flatMap HufTree.symbols).Perm
      ((a :: rest).flatMap HufTree.symbols) := by
  have hfirst := (popLowest_perm a rest).flatMap_right HufTree.symbols
  unfold mergeLowest
  split
  next first hpop =>
    rw [hpop] at hfirst
    exact hfirst
  next first b others hpop =>
    rw [hpop] at hfirst
    have hsecond := (popLowest_perm b others).flatMap_right HufTree.symbols
    refine List.Perm.trans ?_ hfirst
    simp only [List.flatMap_cons, HufTree.symbols, List.append_assoc] at hsecond ⊢
    exact hsecond.append_left first.symbols

theorem length_mergeLowest (next : Nat) (a b : HufTree) (rest : List HufTree) :
    (mergeLowest next a (b :: rest)).2.length = rest.length := by
  have hfirst := (popLowest_perm a (b :: rest)).length_eq
  unfold mergeLowest
  split
  next first hpop => simp [hpop] at hfirst
  next first c others hpop =>
    have hsecond := (popLowest_perm c others).length_eq
    simp only [hpop, List.length_cons] at hfirst hsecond
    exact (Nat.succ.inj hsecond).trans (Nat.succ.inj (Nat.succ.inj hfirst))

theorem mergeLoop_symbols {n : Nat} (next : Nat) (a : HufTree) {rest : List HufTree} (h : rest.length = n) :
    (mergeLoop n next a rest).symbols.Perm ((a :: rest).flatMap HufTree.symbols) := by
  induction n generalizing next a rest with
  | zero =>
    rw [List.length_eq_zero_iff.mp h]
    simp [mergeLoop]
  | succ n ih =>
    obtain ⟨b, rest, rfl⟩ := List.exists_cons_of_length_eq_add_one h
    have hlength := (length_mergeLowest next a b rest).trans (Nat.succ.inj h)
    exact (ih (next + 1) _ hlength).trans (mergeLowest_symbols next a (b :: rest))

theorem hufLeaves_symbols (w : Symbol → Nat) (syms : List Symbol) :
    (hufLeaves w syms).flatMap HufTree.symbols = syms := by
  simp [hufLeaves, List.flatMap_map, HufTree.symbols, ← List.map_eq_flatMap]

/-! ### Codes -/

theorem map_fst_walkTree (t : HufTree) (pre : List Bool) : (walkTree t pre).map Prod.fst = t.symbols := by
  induction t generalizing pre with
  | leaf v w o => rfl
  | node w o l r ihl ihr => rw [walkTree, List.map_append, ihl, ihr, HufTree.symbols]

theorem map_fst_hufCodes (w : Symbol → Nat) (syms : List Symbol) :
    ((hufCodes (hufTree w syms)).map Prod.fst).Perm syms := by
  have hleaves := hufLeaves_symbols w syms
  unfold hufTree
  split
  next hnil =>
    rw [← hleaves, hnil]
    exact .refl _
  next a rest hcons =>
    rw [hcons] at hleaves
    have hsymbols := mergeLoop_symbols syms.length a (rfl : rest.length = rest.length)
    rw [hleaves] at hsymbols
    generalize mergeLoop rest.length syms.length a rest = t at hsymbols
    cases t with
    | leaf v w o => exact hsymbols
    | node w o l r =>
      rw [hufCodes, map_fst_walkTree]
      exact hsymbols

/-- Neither code string begins the other. -/
def PrefixIncomparable (c d : Symbol × List Bool) : Prop := ¬ c.2 <+: d.2 ∧ ¬ d.2 <+: c.2

theorem prefix_of_mem_walkTree {t : HufTree} {pre : List Bool} {c : Symbol × List Bool} (h : c ∈ walkTree t pre) :
    pre <+: c.2 := by
  induction t generalizing pre with
  | leaf v w o =>
    rw [List.mem_singleton.mp h]
  | node w o l r ihl ihr =>
    obtain h | h := List.mem_append.mp h
    · exact (List.prefix_append _ _).trans (ihl h)
    · exact (List.prefix_append _ _).trans (ihr h)

/-- Of two strings on different sides of a branch neither begins the other. -/
theorem not_prefix_of_branch {x y : Bool} (hxy : x ≠ y) {pre a b : List Bool} (ha : pre ++ [x] <+: a)
    (hb : pre ++ [y] <+: b) : ¬ a <+: b := by
  intro hab
  have hlength : (pre ++ [x]).length = (pre ++ [y]).length := by simp
  have heq := (List.prefix_of_prefix_length_le (ha.trans hab) hb hlength.le).eq_of_length hlength
  exact hxy (by simpa using heq)

theorem pairwise_walkTree (t : HufTree) (pre : List Bool) : (walkTree t pre).Pairwise PrefixIncomparable := by
  induction t generalizing pre with
  | leaf v w o => exact List.pairwise_singleton _ _
  | node w o l r ihl ihr =>
    refine List.pairwise_append.mpr ⟨ihl _, ihr _, fun c hc d hd => ?_⟩
    exact ⟨not_prefix_of_branch Bool.false_ne_true (prefix_of_mem_walkTree hc) (prefix_of_mem_walkTree hd),
      not_prefix_of_branch Bool.false_ne_true.symm (prefix_of_mem_walkTree hd) (prefix_of_mem_walkTree hc)⟩

theorem pairwise_hufCodes (root : Option HufTree) : (hufCodes root).Pairwise PrefixIncomparable := by
  match root with
  | none => exact List.Pairwise.nil
  | some (.leaf v w o) => exact List.pairwise_singleton _ _
  | some (.node w o l r) => exact pairwise_walkTree _ _

theorem ne_nil_of_mem_hufCodes {root : Option HufTree} {c : Symbol × List Bool} (h : c ∈ hufCodes root) :
    c.2 ≠ [] := by
  match root with
  | none => cases h
  | some (.leaf v w o) =>
    rw [List.mem_singleton.mp h]
    exact List.cons_ne_nil _ _
  | some (.node w o l r) =>
    obtain h | h := List.mem_append.mp h <;>
      exact List.ne_nil_of_length_pos (Nat.zero_lt_one.trans_le (prefix_of_mem_walkTree h).length_le)

theorem mem_codeString {codes : List (Symbol × List Bool)} {v : Symbol} (h : v ∈ codes.map Prod.fst) :
    (v, codeString codes v) ∈ codes := by
  obtain ⟨c, hc, rfl⟩ := List.mem_map.mp h
  unfold codeString
  split
  next d hd =>
    have hsymbol : d.1 = c.1 := by simpa using List.find?_some hd
    rw [← hsymbol]
    exact List.mem_of_find?_eq_some hd
  next hnone => exact absurd (decide_eq_true rfl) (List.find?_eq_none.mp hnone c hc)

/-! ### The codes of a pair list -/

theorem mem_pairCodes {pairs : List Run} {v : Symbol} (h : v ∈ distinctSymbols pairs) :
    (v, codeString (pairCodes pairs) v) ∈ pairCodes pairs :=
  mem_codeString ((map_fst_hufCodes _ _).mem_iff.mpr h)

theorem codeString_ne_nil {pairs : List Run} {v : Symbol} (h : v ∈ distinctSymbols pairs) :
    codeString (pairCodes pairs) v ≠ [] :=
  ne_nil_of_mem_hufCodes (mem_pairCodes h)

/-- No code of a pair list begins the code of another symbol (R196). -/
theorem eq_of_codeString_prefix {pairs : List Run} {u v : Symbol} (hu : u ∈ distinctSymbols pairs)
    (hv : v ∈ distinctSymbols pairs) (h : codeString (pairCodes pairs) u <+: codeString (pairCodes pairs) v) :
    u = v := by
  have hsymm : Std.Symm PrefixIncomparable := ⟨fun _ _ hcd => hcd.symm⟩
  by_contra hne
  have hpair := (pairwise_hufCodes _).forall (mem_pairCodes hu) (mem_pairCodes hv) fun heq =>
    hne (congrArg Prod.fst heq)
  exact hpair.1 h

end Sys2Proof.Machine
end

section
/-! PROOF. The code table (10_state.md R57, R28): `HUF.BUILD` makes a sound one, and nothing else but `ABORT` and a reset, which
clear it, touches it. -/

namespace Sys2Proof.Machine

theorem symbolWeight_pos {pairs : List Run} (hcounts : ∀ p ∈ pairs, 1 ≤ p.1) {v : Symbol}
    (h : v ∈ distinctSymbols pairs) : 0 < symbolWeight pairs v := by
  obtain ⟨p, hp, hpv⟩ := mem_distinctSymbols.mp h
  have hmem : p.1 ∈ (pairs.filter fun p => p.2 = v).map Prod.fst :=
    List.mem_map.mpr ⟨p, List.mem_filter.mpr ⟨hp, decide_eq_true hpv⟩, rfl⟩
  exact (hcounts p hp).trans (List.le_sum_of_mem hmem)

theorem symbolWeight_le {pairs : List Run} {n : Nat} (hcounts : ∀ p ∈ pairs, p.1 ≤ n) (v : Symbol) :
    symbolWeight pairs v ≤ pairs.length * n := by
  have hsum : symbolWeight pairs v ≤ ((pairs.filter fun p => p.2 = v).map Prod.fst).length • n := by
    refine List.sum_le_card_nsmul _ _ fun x hx => ?_
    obtain ⟨p, hp, rfl⟩ := List.mem_map.mp hx
    exact hcounts p (List.mem_filter.mp hp).1
  rw [List.length_map, smul_eq_mul] at hsum
  exact hsum.trans (Nat.mul_le_mul_right n (List.length_filter_le _ _))

/-- The weights of a checked pair list are nonzero and do not wrap in 64 bits (R183). -/
theorem weight_ne_zero {s : State} {pairs : List Run} (h : checkPairs s = .ok pairs) {v : Symbol}
    (hv : v ∈ distinctSymbols pairs) : BitVec.ofNat 64 (symbolWeight pairs v) ≠ 0 := by
  obtain ⟨_, -, hscan⟩ := except_bind_eq_ok.mp h
  obtain ⟨hlength, hcounts⟩ := scanPairs_counts hscan
  have hpos := symbolWeight_pos (fun p hp => (hcounts p hp).1) hv
  have hle := symbolWeight_le (fun p hp => (hcounts p hp).2.le) v
  have hplen := s.plen.isLt
  rw [length_pairWords] at hlength
  intro h0
  have hzero := congrArg BitVec.toNat h0
  rw [BitVec.toNat_ofNat, Nat.mod_eq_of_lt (by omega)] at hzero
  exact hpos.ne' hzero

namespace CodeTableSound

variable {s : State}

theorem of_eq (h : CodeTableSound s) {t : State} (hfreq : t.freq = s.freq) (hcode : t.code = s.code)
    (hnsym : t.nsym = s.nsym) : CodeTableSound t where
  freqCanonical := hfreq ▸ h.freqCanonical
  codeCanonical := hcode ▸ h.codeCanonical
  nsymFreq := by
    rw [hfreq, hnsym]
    exact h.nsymFreq
  nsymCode := by
    rw [hcode, hnsym]
    exact h.nsymCode
  entry := hcode ▸ h.entry
  prefixFree := hcode ▸ h.prefixFree

theorem cleared (hfreq : s.freq = []) (hcode : s.code = []) (hnsym : s.nsym = 0) : CodeTableSound s where
  freqCanonical := hfreq ▸ Memory.Canonical.nil _ _
  codeCanonical := hcode ▸ Memory.Canonical.nil _ _
  nsymFreq := by simp [hfreq, hnsym]
  nsymCode := by simp [hcode, hnsym, CodeEntry.empty]
  entry := by simp [hcode]
  prefixFree := by simp [hcode]

/-- The tables that `HUF.BUILD` writes are sound. -/
theorem built {pairs : List Run} (hpairs : checkPairs s = .ok pairs) (hlengths : checkCodeLengths pairs = .ok ()) :
    CodeTableSound
      (s.withTables (tableOf 0 (fun v => BitVec.ofNat 64 (symbolWeight pairs v)) (distinctSymbols pairs))
        (distinctSymbols pairs).length
        (tableOf CodeEntry.empty (fun v => codeEntry (codeString (pairCodes pairs) v)) (distinctSymbols pairs))) := by
  have hshort := checkCodeLengths_eq_ok hlengths
  have hpos : ∀ v ∈ distinctSymbols pairs, 1 ≤ (codeEntry (codeString (pairCodes pairs) v)).len.toNat := fun v hv => by
    rw [len_codeEntry (hshort v hv)]
    exact List.length_pos_of_ne_nil (codeString_ne_nil hv)
  have hnsym : (BitVec.ofNat 17 (distinctSymbols pairs).length).toNat = (distinctSymbols pairs).length := by
    have hle := length_distinctSymbols_le pairs
    exact (BitVec.toNat_ofNat _ 17).trans (Nat.mod_eq_of_lt (by omega))
  have hnodup := nodup_distinctSymbols pairs
  exact {
    freqCanonical := Memory.Canonical.tableOf _ _ _
    codeCanonical := Memory.Canonical.tableOf _ _ _
    nsymFreq := (card_filter_tableOf (p := (· ≠ 0)) hnodup (fun _ => weight_ne_zero hpairs) (by simp)).trans hnsym.symm
    nsymCode := (card_filter_tableOf (p := fun e : CodeEntry => e.len ≠ 0) hnodup
      (fun v hv h0 => absurd (hpos v hv) (by simp [h0])) (by simp [CodeEntry.empty])).trans hnsym.symm
    entry := fun c hc => by
      obtain ⟨v, hv, rfl⟩ := mem_tableOf hc
      refine ⟨hpos v hv, (len_codeEntry (hshort v hv)).trans_le (hshort v hv), ?_⟩
      rw [bits_codeEntry (hshort v hv), len_codeEntry (hshort v hv)]
      exact bitsValue_lt _
    prefixFree := fun c hc d hd hprefix => by
      obtain ⟨u, hu, rfl⟩ := mem_tableOf hc
      obtain ⟨v, hv, rfl⟩ := mem_tableOf hd
      rw [string_codeEntry (hshort u hu), string_codeEntry (hshort v hv)] at hprefix
      rw [eq_of_codeString_prefix hu hv hprefix] }

theorem stores (h : CodeTableSound s) {space : Space} {i : Nat} {e : Elem} {t : State} (ht : Stores s space i e t) :
    CodeTableSound t := by
  cases ht <;> exact h.of_eq rfl rfl rfl

theorem completes (h : CodeTableSound s) {i : Instr} {t : State} (ht : Completes s i t) : CodeTableSound t := by
  cases ht with
  | abort => exact cleared (by simp) (by simp) (by simp)
  | hufBuild wellFormed lengths => exact (built wellFormed lengths).of_eq (by simp) (by simp) (by simp)
  | _ => exact h.of_eq (by simp) (by simp) (by simp)

end CodeTableSound

/-- Settles O22: only `HUF.BUILD`, `ABORT` and a reset write the tables, and each leaves them sound. -/
theorem stepKeepsCodeTableSound : Obligations.StepKeepsCodeTableSound := fun _ _ hs h =>
  step_keeps (fun _ hs => hs.of_eq rfl rfl rfl) (fun _ hs => hs.of_eq rfl rfl rfl)
    (fun _ => .cleared rfl rfl rfl) (fun hs ht => hs.stores ht) (fun hs ht => hs.completes ht)
    (fun _ _ hs => hs.of_eq rfl rfl rfl) hs h

end Sys2Proof.Machine
end

section
/-! PROOF. The state after reset (10_state.md R54, R55). -/

namespace Sys2Proof.Machine

theorem defaultEntries_positive {q : Profile} (hq : q ∈ defaultCatalog) {k : Nat} (hk : k < 64) :
    1 ≤ (blockAt q k).toNat := by
  have hall : (defaultCatalog.all fun q => (List.range 64).all fun k => decide (1 ≤ (blockAt q k).toNat)) = true := by
    decide +kernel
  exact of_decide_eq_true (List.all_eq_true.mp (List.all_eq_true.mp hall q hq) k (List.mem_range.mpr hk))

/-- The defaults of R8 are parameters an engine can have. -/
theorem legalParams_default : LegalParams defaultParams where
  smax_low := by decide
  smax_high := by decide
  smax_blocks := by decide
  two_profiles := by decide
  nprof_fits := by decide
  entries_positive := fun _ hq _ hk => defaultEntries_positive hq hk
  first_ones := rfl
  last_luminance := rfl

/-- Settles O19: every register is 0 and every buffer empty, and the default parameters are legal. -/
theorem resetStateMeetsTheInvariants : Obligations.ResetStateMeetsTheInvariants :=
  ⟨.powerOn legalParams_default, .powerOn defaultParams, .cleared rfl rfl rfl⟩

end Sys2Proof.Machine
end

section
/-! PROOF. The accesses of the host (20_memory.md R60, R62 to R64, R77): what a read answers, which writes are refused, and
what an accepted write of a data space stores. -/

namespace Sys2Proof.Machine

/-! ### Writes of the data spaces (R63, R77) -/

theorem lt_size_of_hostWrite {s t : State} {space : Space} {i : Nat} {e : Elem} (h : hostWrite space i e s = some t) :
    i < s.size space := by
  by_contra hi
  simp [hostWrite, hi] at h

/-- Replacing one element of a block changes no other, whatever its index. -/
theorem blockAt_set_of_ne {α : Type} [Inhabited α] (b : Block α) {i k : Nat} (v : α) (h : k ≠ i) :
    blockAt (b.setIfInBounds i v) k = blockAt b k := by
  by_cases hk : k < 64
  · rw [blockAt_set b i v hk, if_neg h.symm]
  · simp [blockAt, Vector.getD, hk]

theorem Stores.element_same {s t : State} {space : Space} {i : Nat} {e : Elem} (h : Stores s space i e t)
    (hdata : space ≠ .reg) (hi : i < s.size space) : t.element space i = e := by
  cases h with
  | tag | prof | slen | plen => exact absurd rfl hdata
  | x _ v | f _ v => exact congrArg Elem.float ((blockAt_set _ i v hi).trans (if_pos rfl))
  | z _ v => exact congrArg Elem.symbol ((blockAt_set _ i v hi).trans (if_pos rfl))
  | sBuf v => exact congrArg Elem.symbol ((Memory.read_write 0 _ i i v).trans (if_pos rfl))
  | pBuf v => exact congrArg Elem.word ((Memory.read_write 0 _ i i v).trans (if_pos rfl))

theorem Stores.element_other {s t : State} {space other : Space} {i j : Nat} {e : Elem} (h : Stores s space i e t)
    (hdata : space ≠ .reg) (hother : ¬ (other = space ∧ j = i)) : t.element other j = s.element other j := by
  cases h with
  | tag | prof | slen | plen => exact absurd rfl hdata
  | x _ v =>
    cases other with
    | x => exact congrArg Elem.float (blockAt_set_of_ne _ v fun hj => hother ⟨rfl, hj⟩)
    | _ => rfl
  | f _ v =>
    cases other with
    | f => exact congrArg Elem.float (blockAt_set_of_ne _ v fun hj => hother ⟨rfl, hj⟩)
    | _ => rfl
  | z _ v =>
    cases other with
    | z => exact congrArg Elem.symbol (blockAt_set_of_ne _ v fun hj => hother ⟨rfl, hj⟩)
    | _ => rfl
  | sBuf v =>
    cases other with
    | s => exact congrArg Elem.symbol ((Memory.read_write 0 _ i j v).trans (if_neg fun hj => hother ⟨rfl, hj⟩))
    | _ => rfl
  | pBuf v =>
    cases other with
    | p => exact congrArg Elem.word ((Memory.read_write 0 _ i j v).trans (if_neg fun hj => hother ⟨rfl, hj⟩))
    | _ => rfl

theorem Stores.frame {s t : State} {space : Space} {i : Nat} {e : Elem} (h : Stores s space i e t)
    (hdata : space ≠ .reg) : t = { s with x := t.x, f := t.f, z := t.z, sBuf := t.sBuf, pBuf := t.pBuf } := by
  cases h with
  | tag | prof | slen | plen => exact absurd rfl hdata
  | _ => rfl

/-- Settles O13: an accepted write is one of the stores, of which each replaces one element of its own buffer. -/
theorem hostWriteStoresOneElement : Obligations.HostWriteStoresOneElement := fun _ _ _ _ _ hdata h =>
  have hstores := stores_of_hostWrite h
  ⟨hstores.element_same hdata (lt_size_of_hostWrite h), fun _ _ => hstores.element_other hdata, hstores.frame hdata⟩

/-! ### Refused writes (R64) -/

theorem commandWord_eq_none {space : Space} {i : Nat} (e : Elem) (h : ¬ (space = .reg ∧ i = 1)) :
    commandWord space i e = none :=
  Option.eq_none_iff_forall_ne_some.mpr fun _ hw =>
    have ⟨hspace, hi, _⟩ := commandWord_eq_some hw
    h ⟨hspace, hi⟩

/-- None of the accepted writes is listed as refused. -/
theorem not_refusedWrite_of_hostWrite {s t : State} {space : Space} {i : Nat} {e : Elem}
    (h : hostWrite space i e s = some t) : ¬ RefusedWrite s space i e := by
  have hi := lt_size_of_hostWrite h
  cases stores_of_hostWrite h with
  | tag | x | f | z | sBuf | pBuf => simp [RefusedWrite, hi]
  | prof unlocked low known => simp [RefusedWrite, hi, unlocked]; omega
  | slen fits | plen fits => simp [RefusedWrite, hi, fits]

/-- A word that is not listed as refused is written to one of the four writable registers, under its condition. -/
theorem exists_hostWrite_reg {s : State} {i : Nat} {v : Word} (hcmd : i ≠ 1)
    (h : ¬ RefusedWrite s .reg i (.word v)) : ∃ t, hostWrite .reg i (.word v) s = some t := by
  obtain ⟨htag, hprof, hslen, hplen⟩ := hostWritesOfRegisters s v
  have hi : i < 18 := Nat.lt_of_not_le fun hle => h (.inl hle)
  have hwritable : i = 7 ∨ i = 8 ∨ i = 9 ∨ i = 10 := by
    have hmem : i ∉ [0, 2, 3, 4, 5, 6, 11, 12, 13, 14, 15, 16, 17] := fun hmem => h (.inr (.inr (.inl ⟨rfl, hmem⟩)))
    simp only [List.mem_cons, List.not_mem_nil, or_false] at hmem
    omega
  obtain rfl | rfl | rfl | rfl := hwritable
  · exact ⟨_, htag⟩
  · have hcond : s.plock = false ∧ v.toNat / 256 = 0 ∧ v.toNat % 256 < s.params.nprof := by
      simpa [RefusedWrite, State.size] using h
    exact ⟨_, hprof.trans (if_pos hcond)⟩
  · have hfits : v.toNat ≤ s.params.smax := by simpa [RefusedWrite, State.size] using h
    exact ⟨_, hslen.trans (if_pos hfits)⟩
  · have hfits : v.toNat ≤ s.params.pmax := by simpa [RefusedWrite, State.size] using h
    exact ⟨_, hplen.trans (if_pos hfits)⟩

/-- Every write of a value of the space's type that is not listed as refused is accepted. -/
theorem exists_hostWrite {s : State} {space : Space} {i : Nat} {e : Elem} (htype : e.ofSpace space = true)
    (hcmd : ¬ (space = .reg ∧ i = 1)) (h : ¬ RefusedWrite s space i e) : ∃ t, hostWrite space i e s = some t := by
  have hi : i < s.size space := Nat.lt_of_not_le fun hle => h (.inl hle)
  cases space with
  | reg =>
    cases e with
    | word v => exact exists_hostWrite_reg (fun h1 => hcmd ⟨rfl, h1⟩) h
    | _ => cases htype
  | x | f | z | s | p =>
    cases e <;> cases htype
    exact ⟨_, if_pos hi⟩
  | _ => exact absurd (.inr (.inl (by decide))) h

/-- Settles O12: the port accepts a typed write exactly where R64 does not list it. -/
theorem hostWriteIsRefusedExactlyAsListed : Obligations.HostWriteIsRefusedExactlyAsListed := by
  intro s space i e rest hpending htype hcmd
  have hstep : step s = .next (answerWrite space i e (s.withPending rest)) :=
    (step_serves hpending).trans (perform_write (commandWord_eq_none e hcmd) _)
  constructor
  · intro hrefused
    have hnone : hostWrite space i e (s.withPending rest) = none :=
      Option.eq_none_iff_forall_ne_some.mpr fun _ ht => not_refusedWrite_of_hostWrite ht hrefused
    rw [hstep, answerWrite, hnone]
    rfl
  · intro haccepted
    obtain ⟨t, ht⟩ := exists_hostWrite (s := s.withPending rest) htype hcmd haccepted
    refine ⟨t, ht, ?_⟩
    rw [hstep, answerWrite, ht]
    rfl

/-! ### Reads (R60, R62) -/

/-- A served read only appends its answer. -/
theorem step_read {s : State} {space : Space} {i : Nat} {rest : List HostAction}
    (h : s.pending = .read space i :: rest) :
    step s = .next ((s.withPending rest).answered (hostRead space i s)) := step_serves h

theorem hostRead_of_lt {s : State} {space : Space} {i : Nat} (h : i < s.size space) :
    hostRead space i s = .value (s.element space i) := if_pos h

theorem hostRead_of_le {s : State} {space : Space} {i : Nat} (h : s.size space ≤ i) :
    hostRead space i s = .busErr := if_neg h.not_gt

/-- `QROM` holds the profiles one after the other (R30, R121). -/
theorem qRom_profile (c : Params) {p j : Nat} (hp : p < c.qcat.length) (hj : j < 64) :
    qRom c (64 * p + j) = blockAt c.qcat[p] j := by
  have hdiv : (64 * p + j) / 64 = p := by omega
  have hmod : (64 * p + j) % 64 = j := by omega
  rw [qRom, hdiv, hmod, List.getD_eq_getElem _ _ hp, blockAt_eq _ hj]
  simp [Vector.getD, hj]

/-- Settles O11: the step answers what `hostRead` says of the state; the spaces are indexed as R60 says by definition, and
`QROM` by profile. -/
theorem hostReadHasNoSideEffect : Obligations.HostReadHasNoSideEffect := by
  refine ⟨fun s space i rest hpending => ⟨rfl, fun hlt => ?_, fun hle => ?_⟩,
    fun _ _ => ⟨rfl, rfl, rfl, rfl, rfl, rfl, rfl, rfl, rfl, rfl, rfl⟩, fun _ _ => ⟨rfl, rfl⟩,
    fun s p j hp hj => congrArg Elem.byte (qRom_profile s.params hp hj)⟩
  · rw [step_read hpending, hostRead_of_lt hlt]
    rfl
  · rw [step_read hpending, hostRead_of_le hle]
    rfl

end Sys2Proof.Machine
end

section
/-! PROOF. The engine never stops (93_implementation_defined.md part 1): every command word, every action and every
step has a next state. -/

namespace Sys2Proof.Machine

theorem exists_execute_eq_next (w : Word) (s : State) : ∃ t, execute w s = .next t := by
  cases hf : s.faulted with
  | true =>
    rw [execute_faulted w hf]
    split
    · exact ⟨_, rfl⟩
    · exact ⟨_, rfl⟩
  | false =>
    cases hd : decode w with
    | ok i =>
      rw [execute_command hf hd]
      exact exists_exec_eq_next i s
    | error e => exact ⟨_, execute_illegal hf hd⟩

theorem exists_perform_eq_next (a : HostAction) (s : State) : ∃ t, perform a s = .next t := by
  cases a with
  | read space i => exact ⟨_, perform_read space i s⟩
  | reset => exact ⟨_, perform_reset s⟩
  | write space i e =>
    cases hc : commandWord space i e with
    | none => exact ⟨_, perform_write hc s⟩
    | some w =>
      obtain ⟨rfl, rfl, rfl⟩ := commandWord_eq_some hc
      obtain ⟨t, ht⟩ := exists_execute_eq_next w s
      exact ⟨t.answered .ok, (perform_command w s).trans (by rw [ht, onNext_next])⟩

theorem exists_step_eq_next (s : State) : ∃ t, step s = .next t := by
  cases hp : s.pending with
  | nil => exact ⟨s, step_idle hp⟩
  | cons a rest =>
    rw [step_serves hp]
    exact exists_perform_eq_next a _

/-- Settles O10: a command ends in a next state, and a step is idle or performs one action. -/
theorem engineNeverStops : Obligations.EngineNeverStops := ⟨exists_exec_eq_next, exists_step_eq_next⟩

end Sys2Proof.Machine
end

section
/-! PROOF. Command words (30_encoding.md R81 to R92). A mask of R88 fixes `op` and the bits below some position,
so that a word matches a row when it has the row's opcode and is 0 modulo a power of two; the rows' opcodes are distinct.
The table is listed by format, and each format's encoding and field reading undo each other. -/

namespace Sys2Proof.Machine

/-! ### Matching a row, in numbers -/

/-- The mask fixes `op` and bits `k-1:0`: what a match with the pattern of `op` and zeros says. -/
theorem and_mask_eq_wordN_iff {w mask : Word} {op k : Nat} (hop : op < 256) (hhigh : mask.toNat / 2 ^ 24 = 2 ^ 8 - 1)
    (hlow : mask.toNat % 2 ^ 24 = 2 ^ k - 1) (hk : k ≤ 24) :
    w &&& mask = wordN op ↔ w.toNat / 2 ^ 24 = op ∧ w.toNat % 2 ^ k = 0 := by
  have hdiv : (w &&& mask).toNat / 2 ^ 24 = w.toNat / 2 ^ 24 := by
    rw [BitVec.toNat_and, Nat.and_div_two_pow, hhigh, Nat.and_two_pow_sub_one_eq_mod]
    have := w.isLt
    omega
  have hmod : (w &&& mask).toNat % 2 ^ 24 = w.toNat % 2 ^ k := by
    rw [BitVec.toNat_and, Nat.and_mod_two_pow, hlow, Nat.and_two_pow_sub_one_eq_mod,
      Nat.mod_mod_of_dvd _ (Nat.pow_dvd_pow 2 hk)]
  rw [← BitVec.toNat_inj, wordN, BitVec.toNat_ofNat, ← hdiv, ← hmod]
  omega

theorem matches_rowN_iff {w : Word} {op : Nat} {i : Instr} (hop : op < 256) :
    w &&& (rowN (wordN op) i).mask = (rowN (wordN op) i).pattern ↔ w.toNat / 2 ^ 24 = op ∧ w.toNat % 2 ^ 24 = 0 :=
  and_mask_eq_wordN_iff (mask := 0xFFFFFFFF) (k := 24) hop (by decide) (by decide) (by decide)

theorem matches_rowB_iff {w : Word} {op : Nat} {i : Nat → Nat → Instr} (hop : op < 256) :
    w &&& (rowB (wordN op) i).mask = (rowB (wordN op) i).pattern ↔ w.toNat / 2 ^ 24 = op ∧ w.toNat % 2 ^ 16 = 0 :=
  and_mask_eq_wordN_iff (mask := 0xFF00FFFF) (k := 16) hop (by decide) (by decide) (by decide)

theorem matches_rowZ_iff {w : Word} {op : Nat} {i : Nat → Nat → Instr} (hop : op < 256) :
    w &&& (rowZ (wordN op) i).mask = (rowZ (wordN op) i).pattern ↔ w.toNat / 2 ^ 24 = op :=
  (and_mask_eq_wordN_iff (mask := 0xFF000000) (k := 0) hop (by decide) (by decide) (by decide)).trans
    (and_iff_left (Nat.mod_one _))

@[simp] theorem build_rowB (pattern : Word) (i : Nat → Nat → Instr) (w : Word) :
    (rowB pattern i).build w = i (rowsField w) (colsField w) := rfl

@[simp] theorem build_rowZ (pattern : Word) (i : Nat → Nat → Instr) (w : Word) :
    (rowZ pattern i).build w = i (nField w) (blkField w) := rfl

/-! ### The fields of a word, in numbers (R83 to R85) -/

theorem rowsField_eq (w : Word) : rowsField w = w.toNat / 2 ^ 20 % 2 ^ 4 := by
  rw [rowsField, BitVec.extractLsb'_toNat, Nat.shiftRight_eq_div_pow]

theorem colsField_eq (w : Word) : colsField w = w.toNat / 2 ^ 16 % 2 ^ 4 := by
  rw [colsField, BitVec.extractLsb'_toNat, Nat.shiftRight_eq_div_pow]

theorem nField_eq (w : Word) : nField w = w.toNat / 2 ^ 16 % 2 ^ 8 := by
  rw [nField, BitVec.extractLsb'_toNat, Nat.shiftRight_eq_div_pow]

theorem blkField_eq (w : Word) : blkField w = w.toNat % 2 ^ 16 := by
  rw [blkField, BitVec.extractLsb'_toNat, Nat.shiftRight_zero]

theorem shapeFits_iff {rows cols : Nat} : shapeFits rows cols = true ↔ rows < 16 ∧ cols < 16 := by
  simp [shapeFits]

theorem sliceFits_iff {n blk : Nat} : sliceFits n blk = true ↔ n < 256 ∧ blk < 65536 := by
  simp [sliceFits]

theorem shapeFits_fields (w : Word) : shapeFits (rowsField w) (colsField w) = true :=
  shapeFits_iff.mpr ⟨BitVec.isLt _, BitVec.isLt _⟩

theorem sliceFits_fields (w : Word) : sliceFits (nField w) (blkField w) = true :=
  sliceFits_iff.mpr ⟨BitVec.isLt _, BitVec.isLt _⟩

/-! ### The words of R92, in numbers -/

theorem toNat_wordN {op : Nat} (hop : op < 256) : (wordN op).toNat = op * 2 ^ 24 := by
  rw [wordN, BitVec.toNat_ofNat]
  omega

theorem toNat_wordB {op rows cols : Nat} (hop : op < 256) (h : shapeFits rows cols = true) :
    (wordB op rows cols).toNat = op * 2 ^ 24 + rows * 2 ^ 20 + cols * 2 ^ 16 := by
  obtain ⟨hrows, hcols⟩ := shapeFits_iff.mp h
  rw [wordB, BitVec.toNat_ofNat]
  omega

theorem toNat_wordZ {op n blk : Nat} (hop : op < 256) (h : sliceFits n blk = true) :
    (wordZ op n blk).toNat = op * 2 ^ 24 + n * 2 ^ 16 + blk := by
  obtain ⟨hn, hblk⟩ := sliceFits_iff.mp h
  rw [wordZ, BitVec.toNat_ofNat]
  omega

/-- The fields of a format-B word are its operands. -/
theorem fields_wordB {op rows cols : Nat} (hop : op < 256) (h : shapeFits rows cols = true) :
    rowsField (wordB op rows cols) = rows ∧ colsField (wordB op rows cols) = cols := by
  obtain ⟨hrows, hcols⟩ := shapeFits_iff.mp h
  rw [rowsField_eq, colsField_eq, toNat_wordB hop h]
  omega

/-- The fields of a format-Z word are its operands. -/
theorem fields_wordZ {op n blk : Nat} (hop : op < 256) (h : sliceFits n blk = true) :
    nField (wordZ op n blk) = n ∧ blkField (wordZ op n blk) = blk := by
  obtain ⟨hn, hblk⟩ := sliceFits_iff.mp h
  rw [nField_eq, blkField_eq, toNat_wordZ hop h]
  omega

theorem wordN_of_matches {w : Word} {op : Nat} (hop : w.toNat / 2 ^ 24 = op) (hzero : w.toNat % 2 ^ 24 = 0) :
    wordN op = w := by
  apply BitVec.eq_of_toNat_eq
  rw [toNat_wordN (by omega)]
  omega

theorem wordB_fields {w : Word} {op : Nat} (hop : w.toNat / 2 ^ 24 = op) (hzero : w.toNat % 2 ^ 16 = 0) :
    wordB op (rowsField w) (colsField w) = w := by
  apply BitVec.eq_of_toNat_eq
  rw [toNat_wordB (by omega) (shapeFits_fields w), rowsField_eq, colsField_eq]
  omega

theorem wordZ_fields {w : Word} {op : Nat} (hop : w.toNat / 2 ^ 24 = op) : wordZ op (nField w) (blkField w) = w := by
  apply BitVec.eq_of_toNat_eq
  rw [toNat_wordZ (by omega) (sliceFits_fields w), nField_eq, blkField_eq]
  omega

/-! ### The table by format -/

/-- The opcodes and commands of format N (R87). -/
def commandsN : List (Nat × Instr) :=
  [(0x00, .nop), (0x01, .abort), (0x40, .rleEnc), (0x41, .rleDec), (0x50, .hufBuild), (0x51, .hufPack)]

/-- The opcodes and commands of format B (R87). -/
def commandsB : List (Nat × (Nat → Nat → Instr)) :=
  [(0x10, .dctFwd), (0x11, .dctInv), (0x20, .qntFwd), (0x21, .qntInv), (0x30, .zzSer)]

/-- The rows of format N. -/
def rowsN : List OpRow := commandsN.map fun c => rowN (wordN c.1) c.2

/-- The rows of format B. -/
def rowsB : List OpRow := commandsB.map fun c => rowB (wordN c.1) c.2

open scoped List in
/-- The table of R88, sorted by format. -/
theorem opRows_perm : opRows.Perm (rowsN ++ (rowsB ++ [rowZ (wordN 0x31) .zzDes])) :=
  calc
    opRows = rowsN.take 2 ++ ((rowsB ++ [rowZ (wordN 0x31) .zzDes]) ++ rowsN.drop 2) := rfl
    _ ~ rowsN.take 2 ++ (rowsN.drop 2 ++ (rowsB ++ [rowZ (wordN 0x31) .zzDes])) :=
      List.perm_append_comm.append_left _
    _ = rowsN ++ (rowsB ++ [rowZ (wordN 0x31) .zzDes]) := by rw [← List.append_assoc, List.take_append_drop]

theorem mem_opRows_iff {r : OpRow} : r ∈ opRows ↔
    (∃ c ∈ commandsN, r = rowN (wordN c.1) c.2) ∨ (∃ c ∈ commandsB, r = rowB (wordN c.1) c.2) ∨
      r = rowZ (wordN 0x31) .zzDes := by
  rw [opRows_perm.mem_iff]
  simp [rowsN, rowsB, eq_comm (a := r)]

theorem commandsN_encode {c : Nat × Instr} (hc : c ∈ commandsN) :
    c.1 < 256 ∧ c.2.wellFormed = true ∧ encode c.2 = wordN c.1 := by
  revert c
  decide

theorem commandsB_encode {c : Nat × (Nat → Nat → Instr)} (hc : c ∈ commandsB) :
    c.1 < 256 ∧ ∀ rows cols, (c.2 rows cols).wellFormed = shapeFits rows cols ∧
      encode (c.2 rows cols) = wordB c.1 rows cols := by
  revert c
  simp [commandsB, Instr.wellFormed, encode]

/-! ### No word matches two rows (R88) -/

/-- The opcode of a row of R88. -/
def rowOp (r : OpRow) : Nat := opField r.pattern

theorem nodup_op_opRows : (opRows.map rowOp).Nodup := by decide

/-- Every mask of R88 fixes `op`. -/
theorem opField_of_matches {w : Word} {r : OpRow} (hr : r ∈ opRows) (h : w &&& r.mask = r.pattern) :
    opField w = rowOp r := by
  have hmask : ∀ r ∈ opRows, r.mask.extractLsb' 24 8 = BitVec.allOnes 8 := by decide
  rw [rowOp, ← h, opField, opField, BitVec.extractLsb'_and, hmask r hr, BitVec.and_allOnes]

theorem pairwise_opRows_disjoint :
    opRows.Pairwise fun r q => ∀ w : Word, ¬ (w &&& r.mask = r.pattern ∧ w &&& q.mask = q.pattern) := by
  refine (List.pairwise_map.mp nodup_op_opRows).imp_of_mem fun hr hq hne w hboth => hne ?_
  rw [← opField_of_matches hr hboth.1, ← opField_of_matches hq hboth.2]

/-! ### Decoding -/

/-- A word that matches a row decodes to that row's command, because no other row matches (R88, R91). -/
theorem decode_of_matches {w : Word} {r : OpRow} (hr : r ∈ opRows) (h : w &&& r.mask = r.pattern) :
    decode w = .ok (r.build w) := by
  cases hfind : opRows.find? (fun q => q.spells w) with
  | none => simpa [OpRow.spells, h] using List.find?_eq_none.mp hfind r hr
  | some q =>
    have hq : q ∈ opRows := List.mem_of_find?_eq_some hfind
    have hmatch : w &&& q.mask = q.pattern := by simpa [OpRow.spells] using List.find?_some hfind
    have hop : rowOp r = rowOp q := (opField_of_matches hr h).symm.trans (opField_of_matches hq hmatch)
    rw [decode, hfind, List.inj_on_of_nodup_map nodup_op_opRows hr hq hop]

theorem exists_decode_iff {w : Word} : (∃ i, decode w = .ok i) ↔ ∃ r ∈ opRows, w &&& r.mask = r.pattern := by
  constructor
  · rintro ⟨i, hi⟩
    obtain ⟨r, hr, hmatch, -⟩ := exists_row_of_decode hi
    exact ⟨r, hr, hmatch⟩
  · rintro ⟨r, hr, hmatch⟩
    exact ⟨_, decode_of_matches hr hmatch⟩

theorem decode_wordN {op : Nat} {i : Instr} (hc : (op, i) ∈ commandsN) : decode (wordN op) = .ok i := by
  have hop : op < 256 := (commandsN_encode hc).1
  refine decode_of_matches (mem_opRows_iff.mpr (.inl ⟨_, hc, rfl⟩)) ((matches_rowN_iff hop).mpr ?_)
  rw [toNat_wordN hop]
  omega

theorem decode_wordB {op rows cols : Nat} {i : Nat → Nat → Instr} (hc : (op, i) ∈ commandsB)
    (h : shapeFits rows cols = true) : decode (wordB op rows cols) = .ok (i rows cols) := by
  have hop : op < 256 := (commandsB_encode hc).1
  obtain ⟨hrows, hcols⟩ := fields_wordB hop h
  have hmatch : wordB op rows cols &&& (rowB (wordN op) i).mask = (rowB (wordN op) i).pattern := by
    obtain ⟨hrlt, hclt⟩ := shapeFits_iff.mp h
    rw [matches_rowB_iff hop, toNat_wordB hop h]
    omega
  rw [decode_of_matches (mem_opRows_iff.mpr (.inr (.inl ⟨_, hc, rfl⟩))) hmatch, build_rowB, hrows, hcols]

theorem decode_wordZ {n blk : Nat} (h : sliceFits n blk = true) : decode (wordZ 0x31 n blk) = .ok (.zzDes n blk) := by
  have hop : 0x31 < 256 := by decide
  obtain ⟨hn, hblk⟩ := fields_wordZ hop h
  have hmatch : wordZ 0x31 n blk &&& (rowZ (wordN 0x31) .zzDes).mask = (rowZ (wordN 0x31) .zzDes).pattern := by
    obtain ⟨hnlt, hblklt⟩ := sliceFits_iff.mp h
    rw [matches_rowZ_iff hop, toNat_wordZ hop h]
    omega
  rw [decode_of_matches (mem_opRows_iff.mpr (.inr (.inr rfl))) hmatch, build_rowZ, hn, hblk]

/-- Settles O1: the word of each command, by its format, matches its row, whose fields read back the operands. -/
theorem encodedCommandDecodesToItself : Obligations.EncodedCommandDecodesToItself := by
  intro i hi
  cases i with
  | nop => exact decode_wordN (by decide)
  | abort => exact decode_wordN (by decide)
  | dctFwd rows cols => exact decode_wordB (by simp [commandsB]) hi
  | dctInv rows cols => exact decode_wordB (by simp [commandsB]) hi
  | qntFwd rows cols => exact decode_wordB (by simp [commandsB]) hi
  | qntInv rows cols => exact decode_wordB (by simp [commandsB]) hi
  | zzSer rows cols => exact decode_wordB (by simp [commandsB]) hi
  | zzDes n blk => exact decode_wordZ hi
  | rleEnc => exact decode_wordN (by decide)
  | rleDec => exact decode_wordN (by decide)
  | hufBuild => exact decode_wordN (by decide)
  | hufPack => exact decode_wordN (by decide)

/-- Settles O4: they are the words of these commands. -/
theorem canonicalWordsDecode : Obligations.CanonicalWordsDecode :=
  have h := encodedCommandDecodesToItself
  ⟨h .nop rfl, h .abort rfl, h (.dctFwd 8 8) rfl, h (.dctInv 8 8) rfl, h (.qntFwd 8 8) rfl, h (.qntInv 8 8) rfl,
    h (.zzSer 8 8) rfl, h (.zzDes 64 1) rfl, h .rleEnc rfl, h .rleDec rfl, h .hufBuild rfl, h .hufPack rfl,
    h (.dctFwd 7 8) rfl, h (.zzDes 63 9) rfl⟩

/-- The command that a matching row reads from a word is well formed, and the word is its encoding (R92). -/
theorem encode_build_of_matches {w : Word} {r : OpRow} (hr : r ∈ opRows) (h : w &&& r.mask = r.pattern) :
    (r.build w).wellFormed = true ∧ encode (r.build w) = w := by
  obtain ⟨⟨op, i⟩, hc, rfl⟩ | ⟨⟨op, i⟩, hc, rfl⟩ | rfl := mem_opRows_iff.mp hr
  · obtain ⟨hop, hwf, henc⟩ := commandsN_encode hc
    obtain ⟨hw, hzero⟩ := (matches_rowN_iff hop).mp h
    exact ⟨hwf, henc.trans (wordN_of_matches hw hzero)⟩
  · obtain ⟨hop, hi⟩ := commandsB_encode hc
    obtain ⟨hwf, henc⟩ := hi (rowsField w) (colsField w)
    obtain ⟨hw, hzero⟩ := (matches_rowB_iff hop).mp h
    exact ⟨hwf.trans (shapeFits_fields w), henc.trans (wordB_fields hw hzero)⟩
  · exact ⟨sliceFits_fields w, wordZ_fields ((matches_rowZ_iff (by decide)).mp h)⟩

/-- Settles O2: a decoded word matches a row, and the rows have distinct opcodes. -/
theorem decodedWordIsTheWordOfItsCommand : Obligations.DecodedWordIsTheWordOfItsCommand := by
  refine ⟨fun w i hi => ?_, pairwise_opRows_disjoint⟩
  obtain ⟨r, hr, hmatch, rfl⟩ := exists_row_of_decode hi
  exact encode_build_of_matches hr hmatch

/-- Settles O3: a word decodes when it matches a row, and what a match says depends on the row's format alone. -/
theorem legalWordsAreExactlyThoseOfTheMap : Obligations.LegalWordsAreExactlyThoseOfTheMap := by
  intro w
  rw [exists_decode_iff, show [0x00, 0x01, 0x40, 0x41, 0x50, 0x51] = commandsN.map Prod.fst from rfl,
    show [0x10, 0x11, 0x20, 0x21, 0x30] = commandsB.map Prod.fst from rfl, List.mem_map, List.mem_map]
  constructor
  · rintro ⟨r, hr, hmatch⟩
    obtain ⟨c, hc, rfl⟩ | ⟨c, hc, rfl⟩ | rfl := mem_opRows_iff.mp hr
    · obtain ⟨hop, hzero⟩ := (matches_rowN_iff (commandsN_encode hc).1).mp hmatch
      exact .inl ⟨⟨c, hc, hop.symm⟩, hzero⟩
    · obtain ⟨hop, hzero⟩ := (matches_rowB_iff (commandsB_encode hc).1).mp hmatch
      exact .inr (.inl ⟨⟨c, hc, hop.symm⟩, hzero⟩)
    · exact .inr (.inr ((matches_rowZ_iff (by decide)).mp hmatch))
  · rintro (⟨⟨c, hc, hop⟩, hzero⟩ | ⟨⟨c, hc, hop⟩, hzero⟩ | hop)
    · exact ⟨_, mem_opRows_iff.mpr (.inl ⟨c, hc, rfl⟩),
        (matches_rowN_iff (commandsN_encode hc).1).mpr ⟨hop.symm, hzero⟩⟩
    · exact ⟨_, mem_opRows_iff.mpr (.inr (.inl ⟨c, hc, rfl⟩)),
        (matches_rowB_iff (commandsB_encode hc).1).mpr ⟨hop.symm, hzero⟩⟩
    · exact ⟨_, mem_opRows_iff.mpr (.inr (.inr rfl)), (matches_rowZ_iff (by decide)).mpr hop⟩

end Sys2Proof.Machine
end

section
/-! PROOF. The two transforms (40_dct.md R107, R108): they complete, what they store, and an induction over the 64 terms of a
sum in the order in which they are added. -/

namespace Sys2Proof.Machine

/-- `DCT.FWD 8, 8` completes with the coefficients stored. -/
theorem exec_dctFwd (s : State) :
    exec (.dctFwd 8 8) s = .next ((s.withF (settleBlock s.draws (dctCoefficient s.x))).drawn 64) := rfl

/-- `DCT.INV 8, 8` completes with the samples stored. -/
theorem exec_dctInv (s : State) :
    exec (.dctInv 8 8) s = .next ((s.withX (settleBlock s.draws (dctSample s.f))).drawn 64) := rfl

theorem withF_drawn_frame (s : State) (v : Block F64) (n : Nat) :
    (s.withF v).drawn n = { s with f := ((s.withF v).drawn n).f, draws := ((s.withF v).drawn n).draws } := rfl

theorem withX_drawn_frame (s : State) (v : Block F64) (n : Nat) :
    (s.withX v).drawn n = { s with x := ((s.withX v).drawn n).x, draws := ((s.withX v).drawn n).draws } := rfl

theorem datum_nanPattern (b : BitVec 53) : datum (nanPattern b) = .nan := by
  obtain ⟨frac, hne, hlt, hb⟩ : ∃ frac, frac ≠ 0 ∧ frac < 2 ^ 52 ∧
      nanPattern b = withSign (b.getLsbD 52) (2047 * 2 ^ 52 + frac) := by
    refine ⟨if b.toNat % 2 ^ 52 = 0 then 1 else b.toNat % 2 ^ 52, ?_, ?_, rfl⟩ <;> split <;> omega
  have hnat := toNat_withSign (b.getLsbD 52) (p := 2047 * 2 ^ 52 + frac) (by omega)
  have hexp : (nanPattern b).toNat / 2 ^ 52 % 2048 = 2047 := by rw [hb, hnat]; split <;> omega
  have hfrac : (nanPattern b).toNat % 2 ^ 52 = frac := by rw [hb, hnat]; split <;> omega
  simp only [datum, hexp, hfrac, hne, if_true, if_false]

theorem isFinite_eq_false_of_isNaN {a : F64} (h : isNaN a = true) : isFinite a = false := by
  simp [isFinite, datum_of_isNaN h]

/-- Storing a result does not change whether it is a NaN. -/
@[simp] theorem isNaN_settleNaN (free : BitVec 53) (a : F64) : isNaN (settleNaN free a) = isNaN a := by
  unfold settleNaN
  split
  case isTrue h => rw [h, isNaN_of_datum_nan (datum_nanPattern free)]
  case isFalse => rfl

theorem settleNaN_of_not_isNaN (free : BitVec 53) {a : F64} (h : isNaN a = false) : settleNaN free a = a := by
  simp [settleNaN, h]

/-- Storing a result does not change whether it is finite. -/
@[simp] theorem isFinite_settleNaN (free : BitVec 53) (a : F64) : isFinite (settleNaN free a) = isFinite a := by
  cases h : isNaN a
  · rw [settleNaN_of_not_isNaN free h]
  · rw [isFinite_eq_false_of_isNaN h, isFinite_eq_false_of_isNaN (by rwa [isNaN_settleNaN])]

theorem settleNaN_of_isFinite (free : BitVec 53) {a : F64} (h : isFinite a = true) : settleNaN free a = a := by
  refine settleNaN_of_not_isNaN free (Bool.eq_false_iff.mpr fun hnan => ?_)
  rw [isFinite_eq_false_of_isNaN hnan] at h
  contradiction

/-- The stored result of row `a` and column `b`. -/
theorem blockAt_settleBlock_row_col (draws : Nat) (result : Nat → Nat → F64) {a b : Nat} (ha : a < 8) (hb : b < 8) :
    blockAt (settleBlock draws result) (8 * a + b) =
      settleNaN (Config.freeNaN (draws + (8 * a + b))) (result a b) := by
  rw [blockAt_settleBlock draws result (by omega), show (8 * a + b) / 8 = a by omega, show (8 * a + b) % 8 = b by omega]

/-- The rows and columns in the order of the two loops: position `n` has row `n / 8` and column `n % 8`. -/
theorem map_row_col_range :
    (List.range 64).map (fun n => (n / 8, n % 8)) =
      (List.range 8).flatMap fun a => (List.range 8).map fun b => (a, b) := by decide

/-- The 64 terms in one row: term `n` is that of `n / 8` and `n % 8`. -/
theorem sum64_eq_foldl (term : Nat → Nat → F64) :
    sum64 term = (List.range 64).foldl (fun acc n => fadd acc (term (n / 8) (n % 8))) fZero := by
  have h := congrArg (List.foldl (fun acc (c : Nat × Nat) => fadd acc (term c.1 c.2)) fZero) map_row_col_range
  simp only [List.foldl_map, List.foldl_flatMap] at h
  exact h.symm

/-- Induction over the terms of a sum, with the number of terms added so far. -/
theorem sum64_induction {P : Nat → F64 → Prop} {term : Nat → Nat → F64} (zero : P 0 fZero)
    (add : ∀ n acc, n < 64 → P n acc → P (n + 1) (fadd acc (term (n / 8) (n % 8)))) : P 64 (sum64 term) := by
  have h : ∀ m ≤ 64, P m ((List.range m).foldl (fun acc n => fadd acc (term (n / 8) (n % 8))) fZero) := by
    intro m
    induction m with
    | zero => exact fun _ => zero
    | succ m ih =>
      intro hm
      rw [List.range_succ, List.foldl_concat]
      exact add m _ (by omega) (ih (by omega))
  rw [sum64_eq_foldl]
  exact h 64 le_rfl

/-- The sum is what any accumulator that follows R107's recurrence ends with. -/
theorem sum64_eq_of_recurrence {term : Nat → Nat → F64} {acc : Nat → F64} (zero : acc 0 = fZero)
    (add : ∀ n, n < 64 → acc (n + 1) = fadd (acc n) (term (n / 8) (n % 8))) : sum64 term = acc 64 :=
  sum64_induction (P := fun n a => a = acc n) zero.symm fun n a hn ha => by rw [ha, add n hn]

/-- Position `n` of a block in terms of its row and column. -/
theorem row_col (n : Nat) : 8 * (n / 8) + n % 8 = n := Nat.div_add_mod n 8

/-- Settles O34: the sum follows the stated recurrence, and storing it replaces no datum but a NaN. -/
theorem dctFwdComputesTheStatedSums : Obligations.DctFwdComputesTheStatedSums := by
  refine fun s => ⟨_, exec_dctFwd s, withF_drawn_frame .., fun u v hu hv acc hzero hadd => ?_⟩
  have hsum : dctCoefficient s.x u v = fmul (fmul fQuarter (coefRom (8 * u + v))) (acc 64) := by
    refine congrArg _ (sum64_eq_of_recurrence hzero fun n hn => ?_)
    rw [row_col, hadd n hn]
    rfl
  rw [← hsum, State.drawn_f, State.withF_f, blockAt_settleBlock_row_col _ _ hu hv, isNaN_settleNaN]
  exact ⟨settleNaN_of_not_isNaN _, id⟩

/-- Settles O35: the sum follows the stated recurrence, and storing it replaces no datum but a NaN. -/
theorem dctInvComputesTheStatedSums : Obligations.DctInvComputesTheStatedSums := by
  refine fun s => ⟨_, exec_dctInv s, withX_drawn_frame .., fun i j hi hj acc hzero hadd => ?_⟩
  have hsum : dctSample s.f i j = fmul fQuarter (acc 64) := by
    refine congrArg _ (sum64_eq_of_recurrence hzero fun n hn => ?_)
    rw [coefAt, row_col, hadd n hn]
    rfl
  rw [← hsum, State.drawn_x, State.withX_x, blockAt_settleBlock_row_col _ _ hi hj, isNaN_settleNaN]
  exact ⟨settleNaN_of_not_isNaN _, id⟩

end Sys2Proof.Machine
end

section
/-! PROOF. What a transform makes of a NaN or an infinity in its input (40_dct.md R109): a property of data that every sum and
every product takes over from an operand reaches all 64 outputs. -/

namespace Sys2Proof.Machine

/-- A sum has the property when an operand does, a product when its second operand does, and a stored result when the
computed one does. -/
structure Absorbing (P : F64 → Prop) : Prop where
  fadd_left : ∀ a b, P a → P (fadd a b)
  fadd_right : ∀ a b, P b → P (fadd a b)
  fmul_right : ∀ a b, P b → P (fmul a b)
  settleNaN : ∀ free a, P a → P (settleNaN free a)

theorem absorbing_isNaN : Absorbing (isNaN · = true) := by
  obtain ⟨-, -, -, hadd⟩ := sumRoundsOnceToNearestEven
  obtain ⟨-, -, -, hmul⟩ := productRoundsOnceToNearestEven
  exact ⟨fun a b h => hadd a b (.inl h), fun a b h => hadd a b (.inr h), fun a b h => hmul a b (.inr h),
    fun free a h => (isNaN_settleNaN free a).trans h⟩

theorem isFinite_innerNaN : isFinite innerNaN = false := isFinite_eq_false_of_isNaN isNaN_innerNaN

theorem datum_of_not_isFinite {a : F64} (h : isFinite a = false) : datum a = .nan ∨ ∃ s, datum a = .inf s := by
  cases hd : datum a with
  | nan => exact .inl rfl
  | inf s => exact .inr ⟨s, rfl⟩
  | fin s m e => simp [isFinite, hd] at h

theorem isFinite_fadd_left {a : F64} (b : F64) (h : isFinite a = false) : isFinite (fadd a b) = false := by
  obtain ha | ⟨s, ha⟩ := datum_of_not_isFinite h
  · rw [fadd_nan (.inl ha), isFinite_innerNaN]
  · cases hb : datum b with
    | nan => rw [fadd_nan (.inr hb), isFinite_innerNaN]
    | inf t =>
      rw [fadd_inf_inf ha hb]
      split
      · exact isFinite_infinity s
      · exact isFinite_innerNaN
    | fin t n g => rw [fadd_inf_fin ha hb, isFinite_infinity]

theorem isFinite_fadd_right (a : F64) {b : F64} (h : isFinite b = false) : isFinite (fadd a b) = false := by
  cases ha : datum a with
  | nan => rw [fadd_nan (.inl ha), isFinite_innerNaN]
  | inf s => exact isFinite_fadd_left b (isFinite_of_datum_inf ha)
  | fin s m e =>
    obtain hb | ⟨t, hb⟩ := datum_of_not_isFinite h
    · rw [fadd_nan (.inr hb), isFinite_innerNaN]
    · rw [fadd_fin_inf ha hb, isFinite_infinity]

/-- Zero times an infinity is a NaN, so no product with an infinity is finite. -/
theorem isFinite_fmul_right (a : F64) {b : F64} (h : isFinite b = false) : isFinite (fmul a b) = false := by
  obtain hb | ⟨t, hb⟩ := datum_of_not_isFinite h
  · rw [fmul_nan (.inr hb), isFinite_innerNaN]
  · cases ha : datum a with
    | nan => rw [fmul_nan (.inl ha), isFinite_innerNaN]
    | inf s => rw [fmul_inf_inf ha hb, isFinite_infinity]
    | fin s m e =>
      rw [fmul_fin_inf ha hb]
      split
      · exact isFinite_innerNaN
      · exact isFinite_infinity _

theorem absorbing_not_isFinite : Absorbing (isFinite · = false) where
  fadd_left _ b h := isFinite_fadd_left b h
  fadd_right a _ h := isFinite_fadd_right a h
  fmul_right a _ h := isFinite_fmul_right a h
  settleNaN free a h := (isFinite_settleNaN free a).trans h

namespace Absorbing
variable {P : F64 → Prop}

/-- One term with the property is enough. -/
theorem of_term (hP : Absorbing P) {term : Nat → Nat → F64} {k : Nat} (hk : k < 64) (h : P (term (k / 8) (k % 8))) :
    P (sum64 term) := by
  refine sum64_induction (P := fun n acc => k < n → P acc) (fun h0 => absurd h0 (Nat.not_lt_zero k))
    (fun n acc _ ih hlt => ?_) hk
  obtain hkn | rfl := Nat.lt_succ_iff_lt_or_eq.mp hlt
  · exact hP.fadd_left _ _ (ih hkn)
  · exact hP.fadd_right _ _ h

theorem dctFwd (hP : Absorbing P) {s : State} (h : ∃ k, k < 64 ∧ P (blockAt s.x k)) :
    ∃ t, exec (.dctFwd 8 8) s = .next t ∧ t.faulted = s.faulted ∧ ∀ k, k < 64 → P (blockAt t.f k) := by
  obtain ⟨k, hk, hx⟩ := h
  refine ⟨_, exec_dctFwd s, by simp, fun n hn => ?_⟩
  rw [State.drawn_f, State.withF_f, blockAt_settleBlock _ _ hn]
  exact hP.settleNaN _ _ (hP.fmul_right _ _ (hP.of_term hk (hP.fmul_right _ _ (by rwa [row_col]))))

theorem dctInv (hP : Absorbing P) {s : State} (h : ∃ k, k < 64 ∧ P (blockAt s.f k)) :
    ∃ t, exec (.dctInv 8 8) s = .next t ∧ t.faulted = s.faulted ∧ ∀ k, k < 64 → P (blockAt t.x k) := by
  obtain ⟨k, hk, hf⟩ := h
  refine ⟨_, exec_dctInv s, by simp, fun n hn => ?_⟩
  rw [State.drawn_x, State.withX_x, blockAt_settleBlock _ _ hn]
  exact hP.settleNaN _ _ (hP.fmul_right _ _ (hP.of_term hk (hP.fmul_right _ _ (by rwa [row_col]))))

end Absorbing

/-- Settles O36: being a NaN and not being finite are both absorbing. -/
theorem naNInputMakesAllOutputsNaN : Obligations.NaNInputMakesAllOutputsNaN := fun _ =>
  ⟨absorbing_isNaN.dctFwd, absorbing_isNaN.dctInv, absorbing_not_isFinite.dctFwd, absorbing_not_isFinite.dctInv⟩

end Sys2Proof.Machine
end

section
/-! PROOF. Exact results: where the exact value has a datum the rounded one is that value; sums and products of integers
(00_scope.md R9). The uniform block of 40_dct.md R107. -/

namespace Sys2Proof.Machine

theorem abs_scaledReal {a : F64} (h : isFinite a = true) :
    ∃ p, p < 2047 * 2 ^ 52 ∧ a = withSign (a.getLsbD 63) p ∧ |scaledReal a| = magnitude p := by
  obtain ⟨p, hp, ha⟩ := exists_withSign_of_isFinite h
  refine ⟨p, hp, ha, ?_⟩
  have hval := scaledReal_withSign (a.getLsbD 63) hp
  rw [← ha] at hval
  rw [← @Int.cast_inj ℚ, Int.cast_abs, hval, abs_signed _ (Nat.cast_nonneg _), Int.cast_natCast]

theorem abs_scaledReal_lt {a : F64} (h : isFinite a = true) : |scaledReal a| < roundingLimit := by
  obtain ⟨p, hp, -, habs⟩ := abs_scaledReal h
  have hlast := magnitude_strictMono.monotone (show p ≤ 2047 * 2 ^ 52 - 1 by omega)
  have hnext := magnitude_strictMono (show 2047 * 2 ^ 52 - 1 < 2047 * 2 ^ 52 by norm_num)
  have hmid := magnitude_at_limit
  rw [habs]
  omega

/-- A finite datum is its sign and its exact value. -/
theorem eq_of_scaledReal_eq {a b : F64} (ha : isFinite a = true) (hb : isFinite b = true)
    (hsign : a.getLsbD 63 = b.getLsbD 63) (h : scaledReal a = scaledReal b) : a = b := by
  obtain ⟨p, -, hpa, hp⟩ := abs_scaledReal ha
  obtain ⟨q, -, hqb, hq⟩ := abs_scaledReal hb
  have hpq : p = q := magnitude_strictMono.injective (by rw [h, hq] at hp; exact_mod_cast hp.symm)
  rw [hpa, hqb, hsign, hpq]

/-- A quotient that is the value of a datum rounds to that value. -/
theorem CorrectlyRounded.exact {neg : Bool} {x d : Int} {r c : F64} (h : CorrectlyRounded neg x d r) (hd : d ≠ 0)
    (hc : isFinite c = true) (hx : scaledReal c * d = x) : isFinite r = true ∧ scaledReal r = scaledReal c := by
  have hr : isFinite r = true := by
    refine Bool.not_eq_false _ ▸ fun hinf => ?_
    have := h.infinite_iff.mp hinf
    rw [← hx, abs_mul, mul_le_mul_iff_left₀ (abs_pos.mpr hd)] at this
    exact absurd (abs_scaledReal_lt hc) (not_lt.mpr this)
  obtain ⟨hle, -⟩ := h.nearest hr c hc
  rw [hx, sub_self, abs_zero, abs_nonpos_iff, sub_eq_zero, ← hx] at hle
  exact ⟨hr, mul_right_cancel₀ hd hle⟩

theorem fadd_exact {a b c : F64} (ha : isFinite a = true) (hb : isFinite b = true) (hc : isFinite c = true)
    (h : scaledReal a + scaledReal b = scaledReal c) :
    isFinite (fadd a b) = true ∧ scaledReal (fadd a b) = scaledReal c := by
  obtain ⟨m, e, hda, -, -⟩ := exists_datum_of_isFinite ha
  obtain ⟨n, g, hdb, -, -⟩ := exists_datum_of_isFinite hb
  exact (fadd_correctlyRounded hda hdb).exact one_ne_zero hc (by rw [mul_one, h])

theorem fmul_exact {a b c : F64} (ha : isFinite a = true) (hb : isFinite b = true) (hc : isFinite c = true)
    (h : scaledReal a * scaledReal b = scaledReal c * 2 ^ 1075) :
    isFinite (fmul a b) = true ∧ scaledReal (fmul a b) = scaledReal c := by
  obtain ⟨m, e, hda, -, -⟩ := exists_datum_of_isFinite ha
  obtain ⟨n, g, hdb, -, -⟩ := exists_datum_of_isFinite hb
  exact (fmul_correctlyRounded hda hdb).exact (by positivity) hc h.symm

theorem sign_fadd {a b : F64} (ha : isFinite a = true) (hb : isFinite b = true) :
    (fadd a b).getLsbD 63 = sumSign (scaledReal a + scaledReal b) (a.getLsbD 63) (b.getLsbD 63) := by
  obtain ⟨m, e, hda, -, -⟩ := exists_datum_of_isFinite ha
  obtain ⟨n, g, hdb, -, -⟩ := exists_datum_of_isFinite hb
  exact (fadd_correctlyRounded hda hdb).sign

theorem sign_fmul {a b : F64} (ha : isFinite a = true) (hb : isFinite b = true) :
    (fmul a b).getLsbD 63 = (a.getLsbD 63 != b.getLsbD 63) := by
  obtain ⟨m, e, hda, -, -⟩ := exists_datum_of_isFinite ha
  obtain ⟨n, g, hdb, -, -⟩ := exists_datum_of_isFinite hb
  exact (fmul_correctlyRounded hda hdb).sign

theorem sign_ofInt (n : Int) : (ofInt n).getLsbD 63 = decide (n < 0) := (ofInt_roundsTo n).sign

theorem mul_neg_iff_of_pos_right {x y : Int} (hy : 0 < y) : x * y < 0 ↔ x < 0 := by
  simp [mul_neg_iff, hy, hy.le]

/-- A sum of integers that are exact is exact. -/
theorem fadd_ofInt {m n : Int} (hm : |m| ≤ 2 ^ 53) (hn : |n| ≤ 2 ^ 53) (h : |m + n| ≤ 2 ^ 53) :
    fadd (ofInt m) (ofInt n) = ofInt (m + n) := by
  obtain ⟨hfm, hvm⟩ := ofIntIsExact m hm
  obtain ⟨hfn, hvn⟩ := ofIntIsExact n hn
  obtain ⟨hf, hv⟩ := ofIntIsExact (m + n) h
  have hsum : scaledReal (ofInt m) + scaledReal (ofInt n) = scaledReal (ofInt (m + n)) := by
    rw [hvm, hvn, hv, add_mul]
  obtain ⟨hfr, hvr⟩ := fadd_exact hfm hfn hf hsum
  refine eq_of_scaledReal_eq hfr hf ?_ hvr
  have hpos : (0 : Int) < 2 ^ 1075 := by positivity
  rw [sign_fadd hfm hfn, hsum, hv, sign_ofInt, sign_ofInt, sign_ofInt, sumSign]
  by_cases h0 : m + n = 0
  · rw [h0, zero_mul, if_pos rfl]
    by_cases hm0 : m < 0
    · simp [hm0, show ¬ n < 0 by omega]
    · simp [hm0]
  · rw [if_neg (mul_ne_zero h0 hpos.ne')]
    simp only [mul_neg_iff_of_pos_right hpos]

/-- A product of a positive datum and an integer that is an integer is exact. -/
theorem fmul_ofInt {c : F64} {m n : Int} (hc : isFinite c = true) (hsign : c.getLsbD 63 = false)
    (hpos : 0 < scaledReal c) (hm : |m| ≤ 2 ^ 53) (hn : |n| ≤ 2 ^ 53) (h : scaledReal c * m = n * 2 ^ 1075) :
    fmul c (ofInt m) = ofInt n := by
  obtain ⟨hfm, hvm⟩ := ofIntIsExact m hm
  obtain ⟨hfn, hvn⟩ := ofIntIsExact n hn
  obtain ⟨hfr, hvr⟩ := fmul_exact hc hfm hfn (by rw [hvm, hvn, ← mul_assoc, h])
  refine eq_of_scaledReal_eq hfr hfn ?_ hvr
  have hiff : m < 0 ↔ n < 0 := by
    rw [← mul_neg_iff_of_pos_right (x := n) (show (0 : Int) < 2 ^ 1075 by positivity), ← h, mul_comm,
      mul_neg_iff_of_pos_right hpos]
  simp only [sign_fmul hc hfm, hsign, sign_ofInt, hiff, Bool.false_bne]

theorem scaledReal_fOne : scaledReal fOne = 2 ^ 1075 := by decide +kernel

theorem cosAt_zero {i : Nat} (hi : i < 8) : cosAt i 0 = fOne := by
  revert i
  decide

theorem fmul_fOne_fOne : fmul fOne fOne = fOne := by decide +kernel

/-- The scale of `F[0]`, an eighth. -/
theorem fmul_fQuarter_coefAt_zero : fmul fQuarter (coefAt 0 0) = 0x3FC0000000000000 := by decide +kernel

theorem scaledReal_eighth : scaledReal 0x3FC0000000000000 = 2 ^ 1072 := by decide +kernel

/-- Settles O37: the partial sums are the multiples of `a`, and an eighth of 64 times `a` is 8 times `a`. -/
theorem uniformBlockHasExactDc : Obligations.UniformBlockHasExactDc := by
  intro s a ha hx
  have hbound : ∀ {n : Nat}, n ≤ 64 → |(n : Int) * a| ≤ 2 ^ 53 := fun {n} hn => by
    rw [abs_mul, Nat.abs_cast]
    nlinarith [abs_nonneg a]
  have hsum : sum64 (fun i j => fmul (fmul (cosAt i 0) (cosAt j 0)) (blockAt s.x (8 * i + j))) =
      ofInt ((64 : Nat) * a) := by
    refine sum64_induction (P := fun n acc => acc = ofInt (n * a)) (by rw [Nat.cast_zero, zero_mul]; decide)
      fun n acc hn hacc => ?_
    have hterm : fmul (fmul (cosAt (n / 8) 0) (cosAt (n % 8) 0)) (blockAt s.x (8 * (n / 8) + n % 8)) = ofInt a := by
      rw [cosAt_zero (by omega), cosAt_zero (by omega), fmul_fOne_fOne, row_col, hx n hn]
      exact fmul_ofInt (by decide) (by decide) (by rw [scaledReal_fOne]; positivity) (by omega) (by omega)
        (by rw [scaledReal_fOne, mul_comm])
    rw [hacc, hterm, fadd_ofInt (hbound hn.le) (by omega) (by rw [← add_one_mul]; exact_mod_cast hbound hn),
      Nat.cast_succ, add_one_mul]
  have hdc : dctCoefficient s.x 0 0 = ofInt (8 * a) := by
    rw [dctCoefficient, hsum, fmul_fQuarter_coefAt_zero]
    refine fmul_ofInt (by decide) (by decide) (by rw [scaledReal_eighth]; positivity) (hbound le_rfl) ?_ ?_
    · exact_mod_cast hbound (n := 8) (by norm_num)
    · rw [scaledReal_eighth, show 1075 = 1072 + 3 from rfl, pow_add, mul_comm]
      generalize (2 : Int) ^ 1072 = w
      push_cast
      ring
  refine ⟨_, exec_dctFwd s, ?_⟩
  rw [State.drawn_f, State.withF_f, blockAt_settleBlock _ _ (by norm_num), hdc]
  exact settleNaN_of_isFinite _ (ofIntIsExact _ (by exact_mod_cast hbound (n := 8) (by norm_num))).1

end Sys2Proof.Machine
end

section
/-! PROOF. The basis tables (40_dct.md R101 to R103): the cosines of the multiples of π/16 between neighbouring multiples of
2^(−60), by the half-angle formula, and so each table entry within half a last-bit weight of its exact value. -/

namespace Sys2Proof.Machine

/-! ### Nearest data -/

/-- `toReal` of R9, the exact value of a finite datum. -/
noncomputable def value (a : F64) : ℝ := scaledReal a / 2 ^ 1075

theorem value_of_scaledReal_eq_two_pow {a : F64} {k d : Nat} (h : scaledReal a = 2 ^ k) (hd : k + d = 1075) :
    value a = 1 / 2 ^ d := by
  rw [value, h, ← hd, pow_add, Int.cast_pow, Int.cast_ofNat, ← div_div, div_self (by positivity)]

theorem value_fOne : value fOne = 1 := by
  rw [value_of_scaledReal_eq_two_pow (d := 0) scaledReal_fOne rfl, pow_zero, div_one]

theorem scaledReal_fQuarter : scaledReal fQuarter = 2 ^ 1073 := by decide +kernel

theorem value_fQuarter : value fQuarter = 1 / 4 := by
  rw [value_of_scaledReal_eq_two_pow (d := 2) scaledReal_fQuarter rfl]
  norm_num

theorem scaledReal_half : scaledReal 0x3FE0000000000000 = 2 ^ 1074 := by decide +kernel

theorem value_half : value 0x3FE0000000000000 = 1 / 2 := by
  rw [value_of_scaledReal_eq_two_pow (d := 1) scaledReal_half rfl, pow_one]

/-- The datum `r` is one nearest to the real number `x`. -/
def NearestTo (x : ℝ) (r : F64) : Prop := ∀ a : F64, isFinite a = true → |value r - x| ≤ |value a - x|

theorem nearestTo_of_eq {x : ℝ} {r : F64} (h : value r = x) : NearestTo x r := fun a _ => by
  rw [h, sub_self, abs_zero]
  exact abs_nonneg _

theorem exists_neg {a : F64} (h : isFinite a = true) : ∃ b, isFinite b = true ∧ scaledReal b = -scaledReal a := by
  obtain ⟨p, hp, ha⟩ := exists_withSign_of_isFinite h
  refine ⟨withSign (!a.getLsbD 63) p, isFinite_withSign _ hp, ?_⟩
  have hval := scaledReal_withSign (a.getLsbD 63) hp
  rw [← ha] at hval
  rw [← @Int.cast_inj ℚ, scaledReal_withSign _ hp, signed_not, Int.cast_neg, hval]
  cases a.getLsbD 63 <;> simp [signed]

theorem NearestTo.neg {x : ℝ} {r r' : F64} (h : NearestTo x r) (hr : scaledReal r' = -scaledReal r) :
    NearestTo (-x) r' := by
  intro a ha
  obtain ⟨b, hb, hval⟩ := exists_neg ha
  have hneg : ∀ {c d : F64}, scaledReal c = -scaledReal d → |value d - -x| = |value c - x| := fun hcd => by
    rw [value, value, hcd, Int.cast_neg, neg_div, ← abs_neg, neg_sub', neg_neg]
  rw [hneg hval, hneg (neg_eq_iff_eq_neg.mpr hr).symm]
  exact h b hb

/-- The values of the data other than a normal one are at least the weight of its last bit away from it. -/
theorem lastBitWeight_le_abs_sub {u q : Nat} (hq : 2 ^ 52 < q) (hq' : q < 2 ^ 53) {a : F64} (ha : isFinite a = true) :
    scaledReal a = q * 2 ^ (u + 1) ∨ 2 ^ (u + 1) ≤ |scaledReal a - q * 2 ^ (u + 1)| := by
  obtain ⟨r, -, -, habs⟩ := abs_scaledReal ha
  have hw : (0 : Int) < 2 ^ (u + 1) := by positivity
  have hp := magnitude_binade (u := u) hq'.le (.inr hq.le)
  have hbelow : r < u * 2 ^ 52 + q → magnitude r ≤ (q - 1) * 2 ^ (u + 1) := fun h => by
    rw [← magnitude_binade (u := u) (q := q - 1) (by omega) (.inr (by omega))]
    exact magnitude_strictMono.monotone (by omega)
  have habove : u * 2 ^ 52 + q < r → (q + 1) * 2 ^ (u + 1) ≤ magnitude r := fun h =>
    (le_magnitude_succ hq'.le (.inr hq.le)).trans (magnitude_strictMono.monotone h)
  obtain ⟨hval, hsign⟩ | ⟨hval, hsign⟩ := abs_cases (scaledReal a)
  · rw [hval] at habs
    rw [habs]
    obtain hr | rfl | hr := lt_trichotomy r (u * 2 ^ 52 + q)
    · have := hbelow hr
      zify [show 1 ≤ q by omega] at this
      exact .inr (by rw [le_abs]; right; linarith)
    · exact .inl (by exact_mod_cast hp)
    · have := habove hr
      zify at this
      exact .inr (by rw [le_abs]; left; linarith)
  · have : (1 : Int) ≤ q := by omega
    exact .inr (by rw [le_abs]; right; nlinarith)

/-- A normal datum within half the weight of its last bit is nearest. -/
theorem nearestTo_of_abs_sub_le {u q d : Nat} {x : ℝ} {r : F64} (hr : r = withSign false (u * 2 ^ 52 + q))
    (hq : 2 ^ 52 < q) (hq' : q < 2 ^ 53) (hd : u + 1 + d = 1075) (h : |q - 2 ^ d * x| ≤ 1 / 2) : NearestTo x r := by
  intro a ha
  have hrval : (scaledReal r : ℝ) = q * 2 ^ (u + 1) := by
    have hval : scaledReal r = (magnitude (u * 2 ^ 52 + q) : Nat) := by
      rw [← @Int.cast_inj ℚ, hr, scaledReal_withSign _ (by omega)]
      rfl
    rw [hval, magnitude_binade hq'.le (.inr hq.le)]
    push_cast
    rfl
  have hscale : ∀ c : F64, |value c - x| = |scaledReal c - 2 ^ d * x * 2 ^ (u + 1)| / 2 ^ 1075 := fun c => by
    rw [value, ← hd, pow_add 2 (u + 1) d, ← abs_of_pos (show (0 : ℝ) < 2 ^ (u + 1) * 2 ^ d by positivity), ← abs_div,
      abs_of_pos (show (0 : ℝ) < 2 ^ (u + 1) * 2 ^ d by positivity)]
    congr 1
    field_simp
  rw [hscale, hscale, hrval]
  refine div_le_div_of_nonneg_right ?_ (by positivity)
  have hw : (0 : ℝ) < 2 ^ (u + 1) := by positivity
  have hnear : |(q : ℝ) * 2 ^ (u + 1) - 2 ^ d * x * 2 ^ (u + 1)| ≤ 2 ^ (u + 1) / 2 := by
    rw [← sub_mul, abs_mul, abs_of_pos hw]
    nlinarith
  obtain heq | hfar := lastBitWeight_le_abs_sub (u := u) hq hq' ha
  · rw [heq]
    push_cast
    exact le_rfl
  · have hfar' : (2 : ℝ) ^ (u + 1) ≤ |(scaledReal a : ℝ) - q * 2 ^ (u + 1)| := by exact_mod_cast hfar
    have := abs_sub_le (scaledReal a : ℝ) (2 ^ d * x * 2 ^ (u + 1)) (q * 2 ^ (u + 1))
    rw [abs_sub_comm (2 ^ d * x * 2 ^ (u + 1))] at this
    linarith

/-! ### The cosines -/

/-- The cosine of `k·π/16` lies between two multiples of 2^(−60). -/
def CosBetween (k : Nat) (a b : Int) : Prop :=
  a ≤ 2 ^ 60 * Real.cos (Real.pi * k / 16) ∧ 2 ^ 60 * Real.cos (Real.pi * k / 16) ≤ b

theorem cosBetween_eight : CosBetween 8 0 0 := by
  have h : Real.cos (Real.pi * (8 : Nat) / 16) = 0 := by
    rw [← Real.cos_pi_div_two]
    congr 1
    push_cast
    ring
  rw [CosBetween, h, mul_zero, Int.cast_zero]
  exact ⟨le_rfl, le_rfl⟩

theorem CosBetween.mirror {k : Nat} {a b : Int} (h : CosBetween k a b) {j : Nat} (hj : j + k = 16) :
    CosBetween j (-b) (-a) := by
  have hcos : Real.cos (Real.pi * j / 16) = -Real.cos (Real.pi * k / 16) := by
    have hjk : (j : ℝ) + k = 16 := by exact_mod_cast hj
    rw [← Real.cos_pi_sub]
    congr 1
    linear_combination Real.pi / 16 * hjk
  obtain ⟨hlow, hhigh⟩ := h
  rw [CosBetween, hcos]
  push_cast
  constructor <;> linarith

/-- The half-angle formula, `2·cos² x = 1 + cos 2x`, for bounds. -/
theorem CosBetween.half {k : Nat} {a b : Int} (h : CosBetween (2 * k) a b) (hk : k ≤ 8) {a' b' : Int} (hb : 0 ≤ b')
    (hlow : 2 * a' ^ 2 ≤ 2 ^ 60 * (2 ^ 60 + a)) (hhigh : 2 ^ 60 * (2 ^ 60 + b) ≤ 2 * b' ^ 2) : CosBetween k a' b' := by
  obtain ⟨ha, hb2⟩ := h
  have hk' : (k : ℝ) ≤ 8 := by exact_mod_cast hk
  have hpi := Real.pi_pos
  have hangle : 0 ≤ Real.pi * k / 16 := by positivity
  have hpos : 0 ≤ Real.cos (Real.pi * k / 16) := Real.cos_nonneg_of_mem_Icc ⟨by linarith, by nlinarith⟩
  have hdouble : Real.cos (Real.pi * (2 * k : Nat) / 16) = 2 * Real.cos (Real.pi * k / 16) ^ 2 - 1 := by
    rw [← Real.cos_two_mul]
    congr 1
    push_cast
    ring
  rw [hdouble] at ha hb2
  rw [CosBetween]
  generalize Real.cos (Real.pi * k / 16) = c at *
  have hlow' : 2 * (a' : ℝ) ^ 2 ≤ 2 ^ 60 * (2 ^ 60 + a) := by exact_mod_cast hlow
  have hhigh' : 2 ^ 60 * (2 ^ 60 + b) ≤ 2 * (b' : ℝ) ^ 2 := by exact_mod_cast hhigh
  exact ⟨le_of_sq_le_sq (by nlinarith) (by positivity), le_of_sq_le_sq (by nlinarith) (by exact_mod_cast hb)⟩

theorem cosBetween_four : CosBetween 4 815238614083298888 815238614083298889 :=
  CosBetween.half (k := 4) cosBetween_eight (by norm_num) (by norm_num) (by norm_num) (by norm_num)

theorem cosBetween_two : CosBetween 2 1065160580698383124 1065160580698383125 :=
  CosBetween.half (k := 2) cosBetween_four (by norm_num) (by norm_num) (by norm_num) (by norm_num)

theorem cosBetween_one : CosBetween 1 1130768441178740757 1130768441178740758 :=
  CosBetween.half (k := 1) cosBetween_two (by norm_num) (by norm_num) (by norm_num) (by norm_num)

theorem cosBetween_six : CosBetween 6 441203958630471859 441203958630471862 :=
  CosBetween.half (k := 6) (cosBetween_four.mirror rfl) (by norm_num) (by norm_num) (by norm_num) (by norm_num)

theorem cosBetween_three : CosBetween 3 958619196450722176 958619196450722179 :=
  CosBetween.half (k := 3) cosBetween_six (by norm_num) (by norm_num) (by norm_num) (by norm_num)

theorem cosBetween_five : CosBetween 5 640528868967736373 640528868967736376 :=
  CosBetween.half (k := 5) (cosBetween_six.mirror rfl) (by norm_num) (by norm_num) (by norm_num) (by norm_num)

theorem cosBetween_seven : CosBetween 7 224923827593068885 224923827593068888 :=
  CosBetween.half (k := 7) (cosBetween_two.mirror rfl) (by norm_num) (by norm_num) (by norm_num) (by norm_num)

theorem CosBetween.nearestTo {k : Nat} {a b : Int} (h : CosBetween k a b) {u q d : Nat} {r : F64}
    (hr : r = withSign false (u * 2 ^ 52 + q)) (hq : 2 ^ 52 < q) (hq' : q < 2 ^ 53) (hd : u + 1 + d = 1075)
    (hlow : 2 ^ 60 * (2 * q - 1) ≤ 2 ^ (d + 1) * a) (hhigh : 2 ^ (d + 1) * b ≤ 2 ^ 60 * (2 * q + 1)) :
    NearestTo (Real.cos (Real.pi * k / 16)) r := by
  obtain ⟨ha, hb⟩ := h
  refine nearestTo_of_abs_sub_le hr hq hq' hd ?_
  generalize Real.cos (Real.pi * k / 16) = c at *
  have hlow' : (2 : ℝ) ^ 60 * (2 * q - 1) ≤ 2 ^ (d + 1) * a := by exact_mod_cast hlow
  have hhigh' : (2 : ℝ) ^ (d + 1) * b ≤ 2 ^ 60 * (2 * q + 1) := by exact_mod_cast hhigh
  have hw : (0 : ℝ) < 2 ^ d := by positivity
  rw [pow_succ 2 d] at hlow' hhigh'
  have := mul_le_mul_of_nonneg_left ha hw.le
  have := mul_le_mul_of_nonneg_left hb hw.le
  rw [abs_le]
  constructor <;> linarith

/-- The listed magnitudes are nearest to the cosines of the multiples of π/16 (R102). -/
theorem nearestTo_cosMagnitudes {k : Nat} (hk : k < 8) :
    NearestTo (Real.cos (Real.pi * k / 16)) (cosMagnitudes.getD k 0) := by
  interval_cases k
  · rw [show cosMagnitudes.getD 0 0 = fOne from rfl, Nat.cast_zero, mul_zero, zero_div, Real.cos_zero]
    exact nearestTo_of_eq value_fOne
  · exact cosBetween_one.nearestTo (u := 1021) (q := 8834128446708912) (d := 53) (by decide) (by norm_num) (by norm_num)
      (by norm_num) (by norm_num) (by norm_num)
  · exact cosBetween_two.nearestTo (u := 1021) (q := 8321567036706118) (d := 53) (by decide) (by norm_num) (by norm_num)
      (by norm_num) (by norm_num) (by norm_num)
  · exact cosBetween_three.nearestTo (u := 1021) (q := 7489212472271267) (d := 53) (by decide) (by norm_num) (by norm_num)
      (by norm_num) (by norm_num) (by norm_num)
  · exact cosBetween_four.nearestTo (u := 1021) (q := 6369051672525773) (d := 53) (by decide) (by norm_num) (by norm_num)
      (by norm_num) (by norm_num) (by norm_num)
  · exact cosBetween_five.nearestTo (u := 1021) (q := 5004131788810440) (d := 53) (by decide) (by norm_num) (by norm_num)
      (by norm_num) (by norm_num) (by norm_num)
  · exact cosBetween_six.nearestTo (u := 1020) (q := 6893811853601123) (d := 54) (by decide) (by norm_num) (by norm_num)
      (by norm_num) (by norm_num) (by norm_num)
  · exact cosBetween_seven.nearestTo (u := 1019) (q := 7028869612283403) (d := 55) (by decide) (by norm_num) (by norm_num)
      (by norm_num) (by norm_num) (by norm_num)

/-! ### The tables -/

/-- The angle, in sixteenths of π, whose cosine an entry of the table of R102 names: `ck` for `k`, and `−ck`, half a turn
further, for `-k`. -/
def entryAngle (k : Int) : Int := if k < 0 then 16 - k else k

theorem nearestTo_signedCos {k : Int} (hk : k.natAbs < 8) :
    NearestTo (Real.cos (Real.pi * entryAngle k / 16)) (signedCos k) := by
  have hnear := nearestTo_cosMagnitudes hk
  have hset : ∀ n < 8, scaledReal (cosMagnitudes.getD n 0 ||| 0x8000000000000000) =
      -scaledReal (cosMagnitudes.getD n 0) := by decide +kernel
  have habs : ((k.natAbs : Nat) : ℝ) = |(k : ℝ)| := by rw [Nat.cast_natAbs, Int.cast_abs]
  rw [habs] at hnear
  unfold entryAngle signedCos
  split
  case isTrue hneg =>
    have hneg' : (k : ℝ) < 0 := by exact_mod_cast hneg
    have hhalf : Real.cos (Real.pi * (16 - k : Int) / 16) = -Real.cos (Real.pi * |(k : ℝ)| / 16) := by
      rw [← Real.cos_add_pi, abs_of_neg hneg']
      congr 1
      push_cast
      ring
    rw [hhalf]
    exact hnear.neg (hset _ hk)
  case isFalse hpos =>
    rwa [abs_of_nonneg (by exact_mod_cast not_lt.mp hpos)] at hnear

/-- Angles of `n` and of `k` sixteenths of π, up to whole turns. -/
theorem cos_eq_of_emod {n k : Int} (h : (n - k) % 32 = 0) :
    Real.cos (Real.pi * n / 16) = Real.cos (Real.pi * k / 16) := by
  obtain ⟨m, hm⟩ := Int.dvd_of_emod_eq_zero h
  have hm' : (n : ℝ) - k = 32 * m := by exact_mod_cast hm
  rw [← Real.cos_add_int_mul_two_pi (Real.pi * k / 16) m]
  congr 1
  linear_combination Real.pi / 16 * hm'

/-- Angles of `n` and of `-k` sixteenths of π, up to whole turns. -/
theorem cos_eq_of_add_emod {n k : Int} (h : (n + k) % 32 = 0) :
    Real.cos (Real.pi * n / 16) = Real.cos (Real.pi * k / 16) := by
  rw [cos_eq_of_emod (k := -k) (by rwa [sub_neg_eq_add]), ← Real.cos_neg (Real.pi * k / 16)]
  congr 1
  push_cast
  ring

/-- The table of R102 names every angle up to whole turns and its sign. -/
theorem cosSigns_angle : ∀ i < 8, ∀ u < 8, ((cosSigns.getD i []).getD u 0).natAbs < 8 ∧
    (((2 * i + 1) * u - entryAngle ((cosSigns.getD i []).getD u 0)) % 32 = 0 ∨
      ((2 * i + 1) * u + entryAngle ((cosSigns.getD i []).getD u 0)) % 32 = 0) := by decide

theorem nearestTo_cosAt {i u : Nat} (hi : i < 8) (hu : u < 8) :
    NearestTo (Real.cos (Real.pi * (2 * i + 1) * u / 16)) (cosAt i u) := by
  obtain ⟨hk, hangle⟩ := cosSigns_angle i hi u hu
  have hcos := hangle.elim cos_eq_of_emod cos_eq_of_add_emod
  push_cast at hcos
  rw [cosAt, cosRom, show (8 * i + u) / 8 = i by omega, show (8 * i + u) % 8 = u by omega, mul_assoc, hcos]
  exact nearestTo_signedCos hk

/-- `c(k)` of R101. -/
noncomputable def dctNorm (k : Nat) : ℝ := if k = 0 then 1 / Real.sqrt 2 else 1

theorem dctNorm_zero : dctNorm 0 = 1 / Real.sqrt 2 := if_pos rfl

theorem dctNorm_pos {k : Nat} (hk : 0 < k) : dctNorm k = 1 := if_neg hk.ne'

theorem dctNorm_zero_mul_self : dctNorm 0 * dctNorm 0 = 1 / 2 := by
  rw [dctNorm_zero, div_mul_div_comm, one_mul, Real.mul_self_sqrt zero_le_two]

theorem dctNorm_zero_eq_cos : dctNorm 0 = Real.cos (Real.pi * (4 : Nat) / 16) := by
  rw [dctNorm_zero, one_div, ← Real.sqrt_div_self, ← Real.cos_pi_div_four]
  congr 1
  push_cast
  ring

theorem nearestTo_coefAt {u v : Nat} (hu : u < 8) (hv : v < 8) : NearestTo (dctNorm u * dctNorm v) (coefAt u v) := by
  have hrow : (8 * u + v) / 8 = u := by omega
  have hcol : (8 * u + v) % 8 = v := by omega
  have hc4 := nearestTo_cosMagnitudes (k := 4) (by norm_num)
  rw [← dctNorm_zero_eq_cos] at hc4
  rw [coefAt, coefRom, hrow, hcol]
  obtain rfl | hu0 := Nat.eq_zero_or_pos u <;> obtain rfl | hv0 := Nat.eq_zero_or_pos v
  · rw [if_pos rfl, dctNorm_zero_mul_self]
    exact nearestTo_of_eq value_half
  · rw [if_neg (by omega), if_pos (.inl rfl), dctNorm_pos hv0, mul_one]
    exact hc4
  · rw [if_neg (by omega), if_pos (.inr rfl), dctNorm_pos hu0, one_mul]
    exact hc4
  · rw [if_neg (by omega), if_neg (by omega), dctNorm_pos hu0, dctNorm_pos hv0, mul_one]
    exact nearestTo_of_eq value_fOne

/-- Settles O32: the entries are the listed magnitudes with the signs of the table. -/
theorem basisTablesAreNearest : Obligations.BasisTablesAreNearest := fun _ _ hi hu a ha =>
  ⟨nearestTo_cosAt hi hu a ha, nearestTo_coefAt hi hu a ha⟩

end Sys2Proof.Machine
end

section
/-! PROOF. Error bounds of the transforms. In the range of a transform of 8-bit samples the multiples of 2^(−33) are data, so
each sum and product is within 2^(−34) of the exact one, and the errors add up. -/

namespace Sys2Proof.Machine

/-! ### One operation -/

/-- The rounding error of one operation with a result up to 2^20. -/
noncomputable def roundingError : ℝ := 1 / 2 ^ 34

theorem roundingError_pos : 0 < roundingError := by
  unfold roundingError
  positivity

/-- `a` is finite and within `δ` of the real number `x`. -/
def Approx (a : F64) (x δ : ℝ) : Prop := isFinite a = true ∧ |value a - x| ≤ δ

theorem Approx.mono {a : F64} {x δ δ' : ℝ} (h : Approx a x δ) (hle : δ ≤ δ') : Approx a x δ' :=
  ⟨h.1, h.2.trans hle⟩

theorem approx_of_value_eq {a : F64} {x : ℝ} (ha : isFinite a = true) (h : value a = x) : Approx a x 0 :=
  ⟨ha, by rw [h, sub_self, abs_zero]⟩

theorem abs_mul_le_mul {x y X Y : ℝ} (hx : |x| ≤ X) (hy : |y| ≤ Y) : |x * y| ≤ X * Y := by
  rw [abs_mul]
  exact mul_le_mul hx hy (abs_nonneg _) ((abs_nonneg _).trans hx)

theorem abs_mul_le_one {x y : ℝ} (hx : |x| ≤ 1) (hy : |y| ≤ 1) : |x * y| ≤ 1 :=
  (abs_mul_le_mul hx hy).trans_eq (one_mul 1)

/-- The value is at most the error above the bound of the number it stands for. -/
theorem Approx.abs_value_le {a : F64} {x δ X : ℝ} (h : Approx a x δ) (hx : |x| ≤ X) : |value a| ≤ X + δ := by
  have := abs_sub_abs_le_abs_sub (value a) x
  linarith [h.2]

theorem exists_scaledReal_eq {n : Int} {k : Nat} (hn : |n| ≤ 2 ^ 53) (hk : 1 ≤ k) (hk' : k ≤ 2044) :
    ∃ c, isFinite c = true ∧ scaledReal c = n * 2 ^ k := by
  obtain ⟨p, hp, hmag⟩ := exists_magnitude_eq (m := n.natAbs) (by rw [Int.abs_eq_natAbs] at hn; omega) hk hk'
  refine ⟨withSign (decide (n < 0)) p, isFinite_withSign _ hp, ?_⟩
  rw [← @Int.cast_inj ℚ, scaledReal_withSign _ hp, hmag, Nat.cast_mul, Nat.cast_natAbs, Int.cast_abs, ← signed_mul_right,
    signed_lt_zero_abs]
  push_cast
  rfl

theorem abs_round_le {y : ℝ} {n : Int} (hy : |y| ≤ n) : |round y| ≤ n := by
  have hround := abs_sub_round y
  have hdist := abs_sub_abs_le_abs_sub (round y : ℝ) y
  rw [abs_sub_comm] at hdist
  have hlt : |(round y : ℝ)| < n + 1 := by linarith
  exact Int.lt_add_one_iff.mp (by exact_mod_cast hlt)

/-- The multiples of 2^(−33) up to 2^20 are data. -/
theorem exists_abs_value_sub_le {x : ℝ} (hx : |x| ≤ 2 ^ 20) :
    ∃ c, isFinite c = true ∧ |value c - x| ≤ roundingError := by
  have hbound : |round (2 ^ 33 * x)| ≤ 2 ^ 53 := by
    refine abs_round_le ?_
    rw [abs_mul, abs_of_pos (by positivity)]
    norm_num
    linarith
  obtain ⟨c, hc, hval⟩ := exists_scaledReal_eq (k := 1042) hbound (by norm_num) (by norm_num)
  have hvalue : 2 ^ 33 * value c = round (2 ^ 33 * x) := by
    rw [value, hval, show 1075 = 1042 + 33 from rfl, pow_add, Int.cast_mul, Int.cast_pow, Int.cast_ofNat]
    have hw : (2 : ℝ) ^ 1042 ≠ 0 := by positivity
    generalize (2 : ℝ) ^ 1042 = w at *
    field_simp
  have hround := abs_sub_round (2 ^ 33 * x)
  rw [← hvalue, ← mul_sub, abs_mul, abs_of_pos (by positivity), abs_sub_comm] at hround
  refine ⟨c, hc, ?_⟩
  rw [roundingError]
  linarith

theorem NearestTo.approx {x : ℝ} {r : F64} (h : NearestTo x r) (hr : isFinite r = true) (hx : |x| ≤ 2 ^ 20) :
    Approx r x roundingError := by
  obtain ⟨c, hc, hle⟩ := exists_abs_value_sub_le hx
  exact ⟨hr, (h c hc).trans hle⟩

/-- A result that is rounded once is near the exact one. -/
theorem CorrectlyRounded.approx {neg : Bool} {x d : Int} {r : F64} (h : CorrectlyRounded neg x d r) (hd : d ≠ 0) {y : ℝ}
    (hy : (x : ℝ) = y * 2 ^ 1075 * d) (hle : |y| ≤ 2 ^ 20) : Approx r y roundingError := by
  have hd' : (0 : ℝ) < |(d : ℝ)| := by positivity
  have hw : (0 : ℝ) < 2 ^ 1075 := by positivity
  have hr : isFinite r = true := by
    refine Bool.not_eq_false _ ▸ fun hinf => ?_
    have hover : (roundingLimit : ℝ) * |(d : ℝ)| ≤ |(x : ℝ)| := by exact_mod_cast h.infinite_iff.mp hinf
    have hlimit : (2 : ℝ) ^ 20 * 2 ^ 1075 < roundingLimit := by
      exact_mod_cast (by decide +kernel : 2 ^ 20 * 2 ^ 1075 < roundingLimit)
    rw [hy, abs_mul, mul_le_mul_iff_left₀ hd', abs_mul, abs_of_pos hw] at hover
    exact absurd (hover.trans (mul_le_mul_of_nonneg_right hle hw.le)) (not_le.mpr hlimit)
  refine NearestTo.approx (fun c hc => ?_) hr hle
  have hdist : ∀ a : F64, ((|scaledReal a * d - x| : Int) : ℝ) = |value a - y| * (2 ^ 1075 * |(d : ℝ)|) := fun a => by
    push_cast
    rw [hy, ← abs_of_pos hw, ← abs_mul, ← abs_mul, abs_of_pos hw, value]
    congr 1
    field_simp
  have hnear := (h.nearest hr c hc).1
  rw [← @Int.cast_le ℝ, hdist, hdist] at hnear
  exact le_of_mul_le_mul_right hnear (by positivity)

theorem approx_fadd {a b : F64} {x y δ η X Y : ℝ} (ha : Approx a x δ) (hb : Approx b y η) (hx : |x| ≤ X) (hy : |y| ≤ Y)
    (hle : (X + δ) + (Y + η) ≤ 2 ^ 20) : Approx (fadd a b) (x + y) (δ + η + roundingError) := by
  obtain ⟨m, e, hda, -, -⟩ := exists_datum_of_isFinite ha.1
  obtain ⟨n, g, hdb, -, -⟩ := exists_datum_of_isFinite hb.1
  have hsum : |value a + value b| ≤ 2 ^ 20 :=
    (abs_add_le _ _).trans ((add_le_add (ha.abs_value_le hx) (hb.abs_value_le hy)).trans hle)
  have hr := (fadd_correctlyRounded hda hdb).approx one_ne_zero (y := value a + value b) ?_ hsum
  · refine ⟨hr.1, ?_⟩
    calc |value (fadd a b) - (x + y)|
        = |(value a - x) + (value b - y) + (value (fadd a b) - (value a + value b))| := by congr 1; ring
      _ ≤ δ + η + roundingError := (abs_add_three _ _ _).trans (add_le_add_three ha.2 hb.2 hr.2)
  · rw [value, value, ← add_div, div_mul_cancel₀ _ (by positivity)]
    push_cast
    ring

theorem approx_fmul {a b : F64} {x y δ η X Y : ℝ} (ha : Approx a x δ) (hb : Approx b y η) (hx : |x| ≤ X) (hy : |y| ≤ Y)
    (hle : (X + δ) * (Y + η) ≤ 2 ^ 20) :
    Approx (fmul a b) (x * y) (X * η + Y * δ + δ * η + roundingError) := by
  obtain ⟨m, e, hda, -, -⟩ := exists_datum_of_isFinite ha.1
  obtain ⟨n, g, hdb, -, -⟩ := exists_datum_of_isFinite hb.1
  have hprod : |value a * value b| ≤ 2 ^ 20 := (abs_mul_le_mul (ha.abs_value_le hx) (hb.abs_value_le hy)).trans hle
  have hr := (fmul_correctlyRounded hda hdb).approx (by positivity) (y := value a * value b) ?_ hprod
  · refine ⟨hr.1, ?_⟩
    calc |value (fmul a b) - x * y|
        = |x * (value b - y) + y * (value a - x) + (value a - x) * (value b - y) +
            (value (fmul a b) - value a * value b)| := by congr 1; ring
      _ ≤ X * η + Y * δ + δ * η + roundingError :=
        (abs_add_le _ _).trans (add_le_add ((abs_add_three _ _ _).trans (add_le_add_three (abs_mul_le_mul hx hb.2)
          (abs_mul_le_mul hy ha.2) (abs_mul_le_mul ha.2 hb.2))) hr.2)
  · rw [value, value, Int.cast_mul, Int.cast_pow, Int.cast_ofNat]
    have hw : (2 : ℝ) ^ 1075 ≠ 0 := by positivity
    generalize (2 : ℝ) ^ 1075 = w at *
    field_simp

/-! ### A sum of 64 terms -/

theorem abs_sum_terms_le {t : Nat → Nat → ℝ} {T : ℝ} (hT : ∀ a b, a < 8 → b < 8 → |t a b| ≤ T) {n : Nat} (hn : n ≤ 64) :
    |∑ k ∈ Finset.range n, t (k / 8) (k % 8)| ≤ n * T := by
  refine (Finset.abs_sum_le_sum_abs _ _).trans ((Finset.sum_le_card_nsmul _ _ T fun k hk => ?_).trans_eq (by simp))
  rw [Finset.mem_range] at hk
  exact hT _ _ (by omega) (by omega)

theorem approx_sum64 {term : Nat → Nat → F64} {t : Nat → Nat → ℝ} {δ T : ℝ}
    (h : ∀ a b, a < 8 → b < 8 → Approx (term a b) (t a b) δ) (hT : ∀ a b, a < 8 → b < 8 → |t a b| ≤ T)
    (hle : 64 * (T + δ + roundingError) ≤ 2 ^ 20) :
    Approx (sum64 term) (∑ n ∈ Finset.range 64, t (n / 8) (n % 8)) (64 * (δ + roundingError)) := by
  have hδ : 0 ≤ δ := (abs_nonneg _).trans (h 0 0 (by norm_num) (by norm_num)).2
  have hT0 : 0 ≤ T := (abs_nonneg _).trans (hT 0 0 (by norm_num) (by norm_num))
  have hε := roundingError_pos
  refine sum64_induction
    (P := fun n acc => Approx acc (∑ k ∈ Finset.range n, t (k / 8) (k % 8)) (n * (δ + roundingError))) ?_
    fun n acc hn hacc => ?_
  · rw [Finset.sum_range_zero, Nat.cast_zero, zero_mul]
    exact approx_of_value_eq (by decide) (by rw [value, show scaledReal fZero = 0 by decide, Int.cast_zero, zero_div])
  · have hpartial := abs_sum_terms_le hT hn.le
    have hn' : (n : ℝ) + 1 ≤ 64 := by exact_mod_cast hn
    have hnext := approx_fadd hacc (h (n / 8) (n % 8) (by omega) (by omega)) hpartial
      (hT _ _ (by omega) (by omega)) (by nlinarith)
    rw [Finset.sum_range_succ]
    refine hnext.mono (le_of_eq ?_)
    push_cast
    ring

/-! ### The factors of the terms -/

/-- The cosine of row `i` and column `u` of the basis (R101). -/
noncomputable def cosine (i u : Nat) : ℝ := Real.cos (Real.pi * (2 * i + 1) * u / 16)

theorem abs_cosine_le (i u : Nat) : |cosine i u| ≤ 1 := Real.abs_cos_le_one _

theorem abs_dctNorm_le (u : Nat) : |dctNorm u| ≤ 1 := by
  unfold dctNorm
  split
  · rw [abs_of_nonneg (by positivity), div_le_one (by positivity), Real.one_le_sqrt]
    exact one_le_two
  · rw [abs_one]

theorem approx_cosAt {i u : Nat} (hi : i < 8) (hu : u < 8) : Approx (cosAt i u) (cosine i u) roundingError := by
  have hfin : ∀ i < 8, ∀ u < 8, isFinite (cosAt i u) = true := by decide
  exact (nearestTo_cosAt hi hu).approx (hfin i hi u hu) ((abs_cosine_le i u).trans (by norm_num))

theorem approx_coefAt {u v : Nat} (hu : u < 8) (hv : v < 8) :
    Approx (coefAt u v) (dctNorm u * dctNorm v) roundingError := by
  have hfin : ∀ u < 8, ∀ v < 8, isFinite (coefAt u v) = true := by decide
  exact (nearestTo_coefAt hu hv).approx (hfin u hu v hv)
    ((abs_mul_le_one (abs_dctNorm_le u) (abs_dctNorm_le v)).trans (by norm_num))

theorem approx_fQuarter : Approx fQuarter (1 / 4) 0 := approx_of_value_eq (by decide) value_fQuarter

/-- The cosines of a term of R107. -/
theorem approx_cosines {i j u v : Nat} (hi : i < 8) (hj : j < 8) (hu : u < 8) (hv : v < 8) :
    Approx (fmul (cosAt i u) (cosAt j v)) (cosine i u * cosine j v) (4 * roundingError) := by
  refine (approx_fmul (approx_cosAt hi hu) (approx_cosAt hj hv) (abs_cosine_le i u) (abs_cosine_le j v) ?_).mono ?_ <;>
  · norm_num [roundingError]

/-- The basis factor of a term of R108. -/
theorem approx_basis {i j u v : Nat} (hi : i < 8) (hj : j < 8) (hu : u < 8) (hv : v < 8) :
    Approx (fmul (fmul (coefAt u v) (cosAt i u)) (cosAt j v)) (dctNorm u * dctNorm v * cosine i u * cosine j v)
      (7 * roundingError) := by
  have hcoef := abs_mul_le_one (abs_dctNorm_le u) (abs_dctNorm_le v)
  have hfirst := (approx_fmul (approx_coefAt hu hv) (approx_cosAt hi hu) hcoef (abs_cosine_le i u)
    (by norm_num [roundingError])).mono (δ' := 4 * roundingError) (by norm_num [roundingError])
  refine (approx_fmul hfirst (approx_cosAt hj hv) (abs_mul_le_one hcoef (abs_cosine_le i u)) (abs_cosine_le j v)
    ?_).mono ?_ <;>
  · norm_num [roundingError]

end Sys2Proof.Machine
end

section
/-! PROOF. The block with only `F[0]` (40_dct.md R108): its one term that is not zero is half of `F[0]`, and every operation on
the way to the sample is exact. -/

namespace Sys2Proof.Machine

theorem exists_half_magnitude {p : Nat} (hp : p < 2047 * 2 ^ 52) (h : 4 ∣ magnitude p) :
    ∃ r, r < 2047 * 2 ^ 52 ∧ 2 * magnitude r = magnitude p := by
  obtain ⟨u, q, hq, hu, rfl⟩ := exists_binade p
  rw [magnitude_binade hq.le hu]
  cases u with
  | zero =>
    rw [magnitude_binade hq.le hu] at h
    obtain ⟨k, rfl⟩ : 2 ∣ q := by omega
    refine ⟨0 * 2 ^ 52 + k, by omega, ?_⟩
    rw [magnitude_binade (by omega) (.inl rfl)]
    ring
  | succ u =>
    refine ⟨u * 2 ^ 52 + q, lt_of_le_of_lt (by gcongr; exact u.le_succ) hp, ?_⟩
    rw [magnitude_binade hq.le (.inr (by omega)), pow_succ 2 (u + 1)]
    ring

/-- Half of a datum is a datum: a normal one has the exponent below, and a subnormal one, whose last bit weighs 2, must be a
multiple of 4. -/
theorem exists_half {d : F64} (hd : isFinite d = true) (h : 4 ∣ scaledReal d) :
    ∃ c, isFinite c = true ∧ 2 * scaledReal c = scaledReal d := by
  obtain ⟨p, hp, hdp, habs⟩ := abs_scaledReal hd
  obtain ⟨r, hr, hmag⟩ := exists_half_magnitude hp (by rw [← dvd_abs, habs] at h; exact_mod_cast h)
  refine ⟨withSign (d.getLsbD 63) r, isFinite_withSign _ hr, ?_⟩
  have hval := scaledReal_withSign (d.getLsbD 63) hp
  rw [← hdp, ← hmag] at hval
  rw [← @Int.cast_inj ℚ, Int.cast_mul, scaledReal_withSign _ hr, hval]
  cases d.getLsbD 63 <;> simp [signed]

theorem scaledReal_fZero : scaledReal fZero = 0 := by decide

/-- A term of the sum of R108. -/
def dctSampleTerm (f : Block F64) (i j u v : Nat) : F64 :=
  fmul (fmul (fmul (coefAt u v) (cosAt i u)) (cosAt j v)) (blockAt f (8 * u + v))

theorem dctSample_eq (f : Block F64) (i j : Nat) :
    dctSample f i j = fmul fQuarter (sum64 (dctSampleTerm f i j)) := rfl

/-- The basis factor of `F[0]` is a half. -/
theorem basis_zero {i j : Nat} (hi : i < 8) (hj : j < 8) :
    fmul (fmul (coefAt 0 0) (cosAt i 0)) (cosAt j 0) = 0x3FE0000000000000 := by
  rw [cosAt_zero hi, cosAt_zero hj]
  decide +kernel

section DcOnly
variable {f : Block F64} {h : F64} (hd : isFinite (blockAt f 0) = true) (hh : isFinite h = true)
  (hhalf : 2 * scaledReal h = scaledReal (blockAt f 0)) (hzero : ∀ k, 1 ≤ k → k < 64 → blockAt f k = fZero)
  {i j : Nat} (hi : i < 8) (hj : j < 8)

include hd hh hhalf hi hj in
theorem dctSampleTerm_zero :
    isFinite (dctSampleTerm f i j 0 0) = true ∧ scaledReal (dctSampleTerm f i j 0 0) = scaledReal h := by
  rw [dctSampleTerm, basis_zero hi hj]
  refine fmul_exact (by decide) hd hh ?_
  rw [scaledReal_half, ← hhalf, show 1075 = 1074 + 1 from rfl, pow_succ 2 1074]
  generalize (2 : Int) ^ 1074 = w
  ring

include hzero hi hj in
theorem dctSampleTerm_pos {n : Nat} (h1 : 1 ≤ n) (h64 : n < 64) :
    isFinite (dctSampleTerm f i j (n / 8) (n % 8)) = true ∧ scaledReal (dctSampleTerm f i j (n / 8) (n % 8)) = 0 := by
  obtain ⟨hbasis, -⟩ := approx_basis hi hj (u := n / 8) (v := n % 8) (by omega) (by omega)
  rw [dctSampleTerm, row_col, hzero n h1 h64]
  exact fmul_exact hbasis (c := fZero) (by decide) (by decide) (by rw [scaledReal_fZero, mul_zero, zero_mul])

include hd hh hhalf hzero hi hj in
/-- The first term makes the sum, and the others leave it. -/
theorem sum64_dctSampleTerm :
    isFinite (sum64 (dctSampleTerm f i j)) = true ∧ scaledReal (sum64 (dctSampleTerm f i j)) = scaledReal h := by
  refine sum64_induction
    (P := fun n acc => isFinite acc = true ∧ scaledReal acc = if n = 0 then 0 else scaledReal h)
    ⟨by decide, scaledReal_fZero⟩ fun n acc hn ⟨hfin, hval⟩ => ?_
  rw [if_neg n.succ_ne_zero]
  obtain rfl | hpos := Nat.eq_zero_or_pos n
  · obtain ⟨htfin, htval⟩ := dctSampleTerm_zero hd hh hhalf hi hj
    exact fadd_exact hfin htfin hh (by rw [hval, if_pos rfl, zero_add, htval])
  · obtain ⟨htfin, htval⟩ := dctSampleTerm_pos hzero hi hj hpos hn
    exact fadd_exact hfin htfin hh (by rw [hval, if_neg hpos.ne', htval, add_zero])

include hd hh hhalf hzero hi hj in
theorem dctSample_dcOnly {e : F64} (he : isFinite e = true) (heighth : 8 * scaledReal e = scaledReal (blockAt f 0)) :
    isFinite (dctSample f i j) = true ∧ scaledReal (dctSample f i j) = scaledReal e := by
  obtain ⟨hfin, hval⟩ := sum64_dctSampleTerm hd hh hhalf hzero hi hj
  rw [dctSample_eq]
  refine fmul_exact (by decide) hfin he ?_
  rw [hval, scaledReal_fQuarter, show scaledReal h = 4 * scaledReal e by omega, show 1075 = 1073 + 2 from rfl, pow_add]
  generalize (2 : Int) ^ 1073 = w
  ring

end DcOnly

/-- Settles O38: half of `F[0]` is a datum, and every element is the sample that a lone `F[0]` gives. -/
theorem dcOnlyBlockInvertsToItsEighth : Obligations.DcOnlyBlockInvertsToItsEighth := by
  rintro s hd ⟨e, he, heighth⟩ hzero
  obtain ⟨h, hh, hhalf⟩ := exists_half hd ⟨2 * scaledReal e, by omega⟩
  refine ⟨_, exec_dctInv s, fun k hk => ?_⟩
  obtain ⟨hfin, hval⟩ := dctSample_dcOnly hd hh hhalf hzero (i := k / 8) (j := k % 8) (by omega) (by omega) he heighth
  rw [State.drawn_x, State.withX_x, blockAt_settleBlock _ _ hk, settleNaN_of_isFinite _ hfin]
  exact ⟨hfin, by rw [hval, heighth]⟩

end Sys2Proof.Machine
end

section
/-! PROOF. The transform of R101 on real numbers: the basis of cosines is orthonormal, by the sum of the cosines of the
multiples of an angle, so the inverse transform undoes the forward one. -/

namespace Sys2Proof.Machine

/-- Half of 1 and the cosines of the first `n` multiples of an angle. -/
noncomputable def cosineSum (n : Nat) (θ : ℝ) : ℝ := 1 / 2 + ∑ u ∈ Finset.range n, Real.cos ((u + 1) * θ)

theorem two_sin_half_mul_cosineSum (n : Nat) (θ : ℝ) :
    2 * Real.sin (θ / 2) * cosineSum n θ = Real.sin ((n + 1 / 2) * θ) := by
  induction n with
  | zero =>
    rw [cosineSum, Finset.sum_range_zero, add_zero, show ((0 : Nat) + 1 / 2 : ℝ) * θ = θ / 2 by push_cast; ring]
    ring
  | succ n ih =>
    have hstep : cosineSum (n + 1) θ = cosineSum n θ + Real.cos ((n + 1) * θ) := by
      rw [cosineSum, cosineSum, Finset.sum_range_succ, add_assoc]
    have hdiff := Real.sin_sub_sin ((n + 1 + 1 / 2) * θ) ((n + 1 / 2) * θ)
    rw [show ((n + 1 + 1 / 2 : ℝ) * θ - (n + 1 / 2) * θ) / 2 = θ / 2 by ring,
      show ((n + 1 + 1 / 2 : ℝ) * θ + (n + 1 / 2) * θ) / 2 = (n + 1) * θ by ring] at hdiff
    rw [hstep, mul_add, ih, ← hdiff]
    push_cast
    ring

/-- The sum for a multiple of π/8 that is no whole turn. -/
theorem cosineSum_seven {m : Int} (hm : ¬ 16 ∣ m) : cosineSum 7 (m * Real.pi / 8) = -(-1) ^ m / 2 := by
  have hsin : Real.sin (m * Real.pi / 8 / 2) ≠ 0 := by
    rw [Ne, Real.sin_eq_zero_iff]
    rintro ⟨k, hk⟩
    have hk' : (k * 16 : ℝ) = m := by
      refine mul_right_cancel₀ Real.pi_ne_zero ?_
      linarith
    exact hm ⟨k, by rw [mul_comm]; exact_mod_cast hk'.symm⟩
  have hsum := two_sin_half_mul_cosineSum 7 (m * Real.pi / 8)
  rw [show ((7 : Nat) + 1 / 2 : ℝ) * (m * Real.pi / 8) = m * Real.pi - m * Real.pi / 8 / 2 by push_cast; ring,
    Real.sin_int_mul_pi_sub] at hsum
  refine mul_left_cancel₀ (mul_ne_zero two_ne_zero hsin) ?_
  rw [hsum]
  ring

theorem cosineSum_zero : cosineSum 7 0 = 15 / 2 := by
  norm_num [cosineSum]

/-- The orthonormal basis: half of `c(u)` times the cosine (R101). -/
noncomputable def basisMatrix : Matrix (Fin 8) (Fin 8) ℝ := fun i u => dctNorm u * cosine i u / 2

theorem basisMatrix_mul_of_pos (i j : Nat) (k : Nat) :
    dctNorm (k + 1) * cosine i (k + 1) / 2 * (dctNorm (k + 1) * cosine j (k + 1) / 2) =
      (Real.cos ((k + 1) * ((i - j : Int) * Real.pi / 8)) + Real.cos ((k + 1) * ((i + j + 1 : Int) * Real.pi / 8))) / 8 := by
  have hprod := Real.two_mul_cos_mul_cos (Real.pi * (2 * i + 1) * (k + 1) / 16) (Real.pi * (2 * j + 1) * (k + 1) / 16)
  rw [dctNorm_pos k.succ_pos, cosine, cosine]
  push_cast
  rw [show (k + 1 : ℝ) * ((i - j) * Real.pi / 8) =
      Real.pi * (2 * i + 1) * (k + 1) / 16 - Real.pi * (2 * j + 1) * (k + 1) / 16 by ring,
    show (k + 1 : ℝ) * ((i + j + 1) * Real.pi / 8) =
      Real.pi * (2 * i + 1) * (k + 1) / 16 + Real.pi * (2 * j + 1) * (k + 1) / 16 by ring, ← hprod]
  ring

/-- The product of two rows, through the difference and the sum of their angles. -/
theorem basisMatrix_row_mul_row (i j : Fin 8) :
    ∑ u, basisMatrix i u * basisMatrix j u =
      (cosineSum 7 ((i - j : Int) * Real.pi / 8) + cosineSum 7 ((i + j + 1 : Int) * Real.pi / 8)) / 8 := by
  have hzero : basisMatrix i 0 * basisMatrix j 0 = 1 / 8 := by
    have hone : ∀ r, cosine r 0 = 1 := fun r => by simp [cosine]
    rw [basisMatrix, basisMatrix, Fin.val_zero, hone, hone]
    linear_combination 1 / 4 * dctNorm_zero_mul_self
  have hpos : ∀ k : Fin 7, basisMatrix i k.succ * basisMatrix j k.succ = _ := fun k => basisMatrix_mul_of_pos i j k
  rw [Fin.sum_univ_succ, hzero, Finset.sum_congr rfl fun k _ => hpos k, ← Finset.sum_div, Finset.sum_add_distrib,
    cosineSum, cosineSum, Finset.sum_range, Finset.sum_range]
  ring

theorem basisMatrix_mul_transpose : basisMatrix * basisMatrix.transpose = 1 := by
  ext i j
  rw [Matrix.mul_apply, Matrix.one_apply]
  simp only [Matrix.transpose_apply, basisMatrix_row_mul_row]
  rw [cosineSum_seven (m := i + j + 1) (by omega)]
  split
  case isTrue h =>
    subst h
    have hodd : Odd ((i : Int) + i + 1) := ⟨i, by ring⟩
    rw [sub_self, Int.cast_zero, zero_mul, zero_div, cosineSum_zero, hodd.neg_one_zpow]
    norm_num
  case isFalse h =>
    have hne : (i : Nat) ≠ j := fun hij => h (Fin.ext hij)
    have hodd : Odd (2 * (j : Int) + 1) := ⟨j, rfl⟩
    rw [cosineSum_seven (m := i - j) (by omega), show (i + j + 1 : Int) = (i - j) + (2 * j + 1) by ring,
      zpow_add₀ (by norm_num), hodd.neg_one_zpow]
    ring

/-- The coefficient of R107 of a block of real numbers. -/
noncomputable def realCoefficient (x : Nat → ℝ) (u v : Nat) : ℝ :=
  1 / 4 * (dctNorm u * dctNorm v) * ∑ n ∈ Finset.range 64, cosine (n / 8) u * cosine (n % 8) v * x (8 * (n / 8) + n % 8)

/-- The sample of R108 of a block of real numbers. -/
noncomputable def realSample (f : Nat → Nat → ℝ) (i j : Nat) : ℝ :=
  1 / 4 * ∑ n ∈ Finset.range 64,
    dctNorm (n / 8) * dctNorm (n % 8) * cosine i (n / 8) * cosine j (n % 8) * f (n / 8) (n % 8)

theorem sum_range_64 (g : Nat → Nat → ℝ) :
    ∑ n ∈ Finset.range 64, g (n / 8) (n % 8) = ∑ a : Fin 8, ∑ b : Fin 8, g a b := by
  rw [Finset.sum_range, ← Fintype.sum_prod_type' (f := fun a b : Fin 8 => g a b)]
  exact (Fintype.sum_equiv (finProdFinEquiv (m := 8) (n := 8)) _ _ fun p => by
    rw [finProdFinEquiv_apply_val]; congr 1 <;> omega).symm

theorem realCoefficient_eq (x : Nat → ℝ) (u v : Fin 8) :
    realCoefficient x u v =
      (basisMatrix.transpose * (Matrix.of fun i j : Fin 8 => x (8 * i + j)) * basisMatrix) u v := by
  rw [realCoefficient, sum_range_64 (fun a b => cosine a u * cosine b v * x (8 * a + b))]
  simp only [Matrix.mul_apply, Matrix.transpose_apply, Matrix.of_apply, basisMatrix, Finset.sum_mul, Finset.mul_sum]
  rw [Finset.sum_comm]
  refine Finset.sum_congr rfl fun a _ => Finset.sum_congr rfl fun b _ => ?_
  ring

theorem realSample_eq (f : Nat → Nat → ℝ) (i j : Fin 8) :
    realSample f i j =
      (basisMatrix * (Matrix.of fun u v : Fin 8 => f u v) * basisMatrix.transpose) i j := by
  rw [realSample, sum_range_64 (fun a b => dctNorm a * dctNorm b * cosine i a * cosine j b * f a b)]
  simp only [Matrix.mul_apply, Matrix.transpose_apply, Matrix.of_apply, basisMatrix, Finset.sum_mul, Finset.mul_sum]
  rw [Finset.sum_comm]
  refine Finset.sum_congr rfl fun a _ => Finset.sum_congr rfl fun b _ => ?_
  ring

/-- On real numbers the inverse transform undoes the forward one. -/
theorem realSample_realCoefficient (x : Nat → ℝ) {i j : Nat} (hi : i < 8) (hj : j < 8) :
    realSample (realCoefficient x) i j = x (8 * i + j) := by
  have hforward : (Matrix.of fun u v : Fin 8 => realCoefficient x u v) =
      basisMatrix.transpose * (Matrix.of fun i j : Fin 8 => x (8 * i + j)) * basisMatrix :=
    Matrix.ext fun u v => realCoefficient_eq x u v
  have hinverse := realSample_eq (realCoefficient x) ⟨i, hi⟩ ⟨j, hj⟩
  rw [hforward, ← Matrix.mul_assoc, ← Matrix.mul_assoc, basisMatrix_mul_transpose, Matrix.one_mul, Matrix.mul_assoc,
    basisMatrix_mul_transpose, Matrix.mul_one] at hinverse
  exact hinverse

end Sys2Proof.Machine
end

section
/-! PROOF. The round trip of 8-bit samples (40_dct.md R110): the errors of both transforms added up, against the exact
transforms. In units of `roundingError` a term of a coefficient is off by at most 1021, the coefficient by 50000, a term of a
sample by 80000 and the sample by a quarter of 64 times as much. -/

namespace Sys2Proof.Machine

section Forward
variable {y : Nat → ℝ} (hy : ∀ k, k < 64 → |y k| ≤ 255) {u v : Nat}

include hy in
theorem abs_coefficientTerm_le {i j : Nat} (hi : i < 8) (hj : j < 8) :
    |cosine i u * cosine j v * y (8 * i + j)| ≤ 255 :=
  (abs_mul_le_mul (abs_mul_le_one (abs_cosine_le i u) (abs_cosine_le j v)) (hy _ (by omega))).trans_eq (one_mul _)

include hy in
theorem abs_coefficientSum_le :
    |∑ n ∈ Finset.range 64, cosine (n / 8) u * cosine (n % 8) v * y (8 * (n / 8) + n % 8)| ≤ 16320 :=
  (abs_sum_terms_le (t := fun i j => cosine i u * cosine j v * y (8 * i + j))
    (fun _ _ hi hj => abs_coefficientTerm_le hy hi hj) le_rfl).trans_eq (by norm_num)

theorem abs_scale_le : |1 / 4 * (dctNorm u * dctNorm v)| ≤ 1 / 4 :=
  (abs_mul_le_mul (abs_of_pos (by norm_num)).le (abs_mul_le_one (abs_dctNorm_le u) (abs_dctNorm_le v))).trans_eq
    (mul_one _)

include hy in
theorem abs_realCoefficient_le : |realCoefficient y u v| ≤ 4080 :=
  (abs_mul_le_mul abs_scale_le (abs_coefficientSum_le hy)).trans_eq (by norm_num)

include hy in
/-- The error of a coefficient. -/
theorem approx_dctCoefficient {x : Block F64} (hx : ∀ k, k < 64 → Approx (blockAt x k) (y k) 0) (hu : u < 8)
    (hv : v < 8) : Approx (dctCoefficient x u v) (realCoefficient y u v) (50000 * roundingError) := by
  have hterm : ∀ i j, i < 8 → j < 8 → Approx (fmul (fmul (cosAt i u) (cosAt j v)) (blockAt x (8 * i + j)))
      (cosine i u * cosine j v * y (8 * i + j)) (1021 * roundingError) := fun i j hi hj =>
    (approx_fmul (approx_cosines hi hj hu hv) (hx _ (by omega))
      (abs_mul_le_one (abs_cosine_le i u) (abs_cosine_le j v)) (hy _ (by omega))
      (by norm_num [roundingError])).mono (by norm_num [roundingError])
  have hsum := approx_sum64 hterm (fun i j hi hj => abs_coefficientTerm_le hy hi hj) (by norm_num [roundingError])
  have hscale := (approx_fmul approx_fQuarter (approx_coefAt hu hv) (abs_of_pos (by norm_num)).le
    (abs_mul_le_one (abs_dctNorm_le u) (abs_dctNorm_le v)) (by norm_num [roundingError])).mono
    (δ' := 2 * roundingError) (by norm_num [roundingError])
  exact (approx_fmul hscale hsum abs_scale_le (abs_coefficientSum_le hy) (by norm_num [roundingError])).mono
    (by norm_num [roundingError])

end Forward

section Inverse
variable {g : Nat → Nat → ℝ} (hg : ∀ u v, u < 8 → v < 8 → |g u v| ≤ 4080) {i j : Nat}

theorem abs_basis_le (u v : Nat) : |dctNorm u * dctNorm v * cosine i u * cosine j v| ≤ 1 :=
  abs_mul_le_one (abs_mul_le_one (abs_mul_le_one (abs_dctNorm_le u) (abs_dctNorm_le v)) (abs_cosine_le i u))
    (abs_cosine_le j v)

include hg in
theorem abs_sampleTerm_le {u v : Nat} (hu : u < 8) (hv : v < 8) :
    |dctNorm u * dctNorm v * cosine i u * cosine j v * g u v| ≤ 4080 :=
  (abs_mul_le_mul (abs_basis_le u v) (hg u v hu hv)).trans_eq (one_mul _)

include hg in
/-- The error of a sample, from coefficients with the error of `approx_dctCoefficient`. -/
theorem approx_dctSample {f : Block F64}
    (hf : ∀ u v, u < 8 → v < 8 → Approx (blockAt f (8 * u + v)) (g u v) (50000 * roundingError)) (hi : i < 8)
    (hj : j < 8) : Approx (dctSample f i j) (realSample g i j) (1 / 2000) := by
  have hterm : ∀ u v, u < 8 → v < 8 → Approx (dctSampleTerm f i j u v)
      (dctNorm u * dctNorm v * cosine i u * cosine j v * g u v) (80000 * roundingError) := fun u v hu hv =>
    (approx_fmul (approx_basis hi hj hu hv) (hf u v hu hv) (abs_basis_le u v) (hg u v hu hv)
      (by norm_num [roundingError])).mono (by norm_num [roundingError])
  have hsum := approx_sum64 hterm (fun u v hu hv => abs_sampleTerm_le hg hu hv) (by norm_num [roundingError])
  have hsumle := abs_sum_terms_le (fun u v hu hv => abs_sampleTerm_le (i := i) (j := j) hg hu hv) le_rfl
  exact (approx_fmul approx_fQuarter hsum (abs_of_pos (by norm_num)).le hsumle (by norm_num [roundingError])).mono
    (by norm_num [roundingError])

end Inverse

/-- An error below a thousandth, in the scale of `scaledReal`. -/
theorem scaledReal_dist_lt {a b : F64} (h : |value a - value b| ≤ 1 / 2000) :
    1000 * |scaledReal a - scaledReal b| < 2 ^ 1075 := by
  have hw : (0 : ℝ) < 2 ^ 1075 := by positivity
  rw [value, value, ← sub_div, abs_div, abs_of_pos hw, div_le_iff₀ hw] at h
  rw [← @Int.cast_lt ℝ, Int.cast_mul, Int.cast_abs, Int.cast_sub, Int.cast_pow, Int.cast_ofNat, Int.cast_ofNat]
  generalize (2 : ℝ) ^ 1075 = w at *
  linarith

theorem value_ofInt_bound {n : Nat} (hn : n ≤ 255) : isFinite (ofInt n) = true ∧ |value (ofInt n)| ≤ 255 := by
  obtain ⟨hfin, hval⟩ := ofIntIsExact n (by rw [Nat.abs_cast]; exact_mod_cast hn.trans (by norm_num))
  refine ⟨hfin, ?_⟩
  rw [value, hval, Int.cast_mul, Int.cast_pow, Int.cast_ofNat, mul_div_cancel_right₀ _ (by positivity), Int.cast_natCast,
    Nat.abs_cast]
  exact_mod_cast hn

/-- Settles O39: the samples are within the error bounds of what the exact transforms give, which is the block itself. -/
theorem transformRoundTripIsWithinTolerance : Obligations.TransformRoundTripIsWithinTolerance := by
  intro s hs
  have hsample : ∀ k, k < 64 → isFinite (blockAt s.x k) = true ∧ |value (blockAt s.x k)| ≤ 255 := fun k hk => by
    obtain ⟨n, hn, hx⟩ := hs k hk
    rw [hx]
    exact value_ofInt_bound hn
  have hcoef : ∀ u v, u < 8 → v < 8 →
      Approx (blockAt (settleBlock s.draws (dctCoefficient s.x)) (8 * u + v))
        (realCoefficient (fun k => value (blockAt s.x k)) u v) (50000 * roundingError) := fun u v hu hv => by
    have h := approx_dctCoefficient (fun k hk => (hsample k hk).2)
      (fun k hk => approx_of_value_eq (hsample k hk).1 rfl) hu hv
    rwa [blockAt_settleBlock_row_col _ _ hu hv, settleNaN_of_isFinite _ h.1]
  refine ⟨_, _, exec_dctFwd s, exec_dctInv _, fun k hk => ?_⟩
  have h := approx_dctSample (fun u v _ _ => abs_realCoefficient_le fun k hk => (hsample k hk).2) hcoef
    (i := k / 8) (j := k % 8) (by omega) (by omega)
  rw [realSample_realCoefficient _ (by omega) (by omega), row_col] at h
  rw [State.drawn_x, State.withX_x, blockAt_settleBlock _ _ hk, State.drawn_f, State.withF_f,
    settleNaN_of_isFinite _ h.1]
  exact ⟨h.1, scaledReal_dist_lt h.2⟩

end Sys2Proof.Machine
end

section
/-! PROOF. The quantizer (41_quant.md R125, R126): which quotients have a quantized value, the block or the lowest index
without one, and the exact products. -/

namespace Sys2Proof.Machine

/-! ### One coefficient -/

/-- The quotient of a coefficient and a divisor is finite and its rounding fits 16 bits (R125). -/
def Quantizable (a : F64) (q : Nat) : Prop :=
  isFinite (fdiv a (ofInt q)) = true ∧ -32768 ≤ rhaz (fdiv a (ofInt q)) ∧ rhaz (fdiv a (ofInt q)) ≤ 32767

theorem not_quantizable {a : F64} {q : Nat}
    (h : isFinite (fdiv a (ofInt q)) = false ∨ rhaz (fdiv a (ofInt q)) < -32768 ∨ 32767 < rhaz (fdiv a (ofInt q))) :
    ¬ Quantizable a q := by
  rintro ⟨hfin, hlow, hhigh⟩
  obtain hinf | hlt | hgt := h
  · rw [hfin] at hinf
    contradiction
  · exact absurd hlow (not_le.mpr hlt)
  · exact absurd hhigh (not_le.mpr hgt)

theorem quantizeOne_of_quantizable {a : F64} {q : Nat} (h : Quantizable a q) :
    quantizeOne a q = some (BitVec.ofInt 16 (rhaz (fdiv a (ofInt q)))) := if_pos h

theorem quantizeOne_of_not_quantizable {a : F64} {q : Nat} (h : ¬ Quantizable a q) : quantizeOne a q = none :=
  if_neg h

theorem quantizeOne_isNone_iff {a : F64} {q : Nat} : (quantizeOne a q).isNone = true ↔ ¬ Quantizable a q := by
  by_cases h : Quantizable a q
  · simp [quantizeOne_of_quantizable h, h]
  · simp [quantizeOne_of_not_quantizable h, h]

/-- The symbol of a quotient in range has the rounded quotient as its value. -/
theorem toInt_quantizeOne {a : F64} {q : Nat} (h : Quantizable a q) :
    ((quantizeOne a q).getD 0).toInt = rhaz (fdiv a (ofInt q)) := by
  have ⟨_, hlow, hhigh⟩ := h
  rw [quantizeOne_of_quantizable h, Option.getD_some]
  exact BitVec.toInt_ofInt_eq_self (by decide) hlow (Int.lt_add_one_of_le hhigh)

/-! ### The block -/

/-- The block of the quantized values, 0 standing where there is none. -/
def quantizedBlock (s : State) : Block Symbol :=
  Vector.ofFn fun k => (quantizeOne (blockAt s.f k) (s.profileEntry k)).getD 0

theorem quantizeBlock_eq_ok_iff {s : State} {z : Block Symbol} :
    quantizeBlock s = .ok z ↔
      (∀ k, k < 64 → Quantizable (blockAt s.f k) (s.profileEntry k)) ∧ z = quantizedBlock s := by
  have hnone : (List.range 64).find? (fun k => (quantizeOne (blockAt s.f k) (s.profileEntry k)).isNone) = none ↔
      ∀ k, k < 64 → Quantizable (blockAt s.f k) (s.profileEntry k) := by
    simp only [List.find?_eq_none, List.mem_range, quantizeOne_isNone_iff, not_not]
  rw [← hnone, quantizeBlock]
  split
  next k hk => simp [hk]
  next hk => simp [hk, quantizedBlock, eq_comm]

/-- The lowest index without a quantized value is the one reported. -/
theorem quantizeBlock_eq_error {s : State} {k : Nat} (hk : k < 64)
    (hlow : ∀ j, j < k → Quantizable (blockAt s.f j) (s.profileEntry j))
    (hbad : ¬ Quantizable (blockAt s.f k) (s.profileEntry k)) : quantizeBlock s = .error ⟨.coefRange, k⟩ := by
  have hfind : (List.range 64).find? (fun k => (quantizeOne (blockAt s.f k) (s.profileEntry k)).isNone) = some k := by
    refine List.find?_range_eq_some.mpr ⟨quantizeOne_isNone_iff.mpr hbad, List.mem_range.mpr hk, fun j hj => ?_⟩
    rw [quantizeOne_of_quantizable (hlow j hj)]
    rfl
  rw [quantizeBlock, hfind]

theorem toInt_blockAt_quantizedBlock {s : State} {k : Nat} (hk : k < 64)
    (h : Quantizable (blockAt s.f k) (s.profileEntry k)) :
    (blockAt (quantizedBlock s) k).toInt = rhaz (fdiv (blockAt s.f k) (ofInt (s.profileEntry k))) := by
  rw [quantizedBlock, blockAt_ofFn _ hk, toInt_quantizeOne h]

/-! ### The commands -/

theorem exec_qntFwd {s : State} (hp : s.plock = true) :
    exec (.qntFwd 8 8) s = finish (.qntFwd 8 8) s (quantizeBlock s >>= fun z => .ok (s.withZ z)) := by
  change finish _ s (checkShape 8 8 >>= fun _ => checkProfile s >>= fun _ => _) = _
  rw [checkShape_eight, except_bind_ok, checkProfile_locked hp, except_bind_ok]
  rfl

/-- The block of the exact products (R126). -/
def dequantizedBlock (s : State) : Block F64 := Vector.ofFn fun k => dequantizeOne (blockAt s.z k) (s.profileEntry k)

theorem exec_qntInv {s : State} (hp : s.plock = true) :
    exec (.qntInv 8 8) s = .next (s.withF (dequantizedBlock s)) := by
  change finish _ s (checkShape 8 8 >>= fun _ => checkProfile s >>= fun _ => _) = _
  rw [checkShape_eight, except_bind_ok, checkProfile_locked hp, except_bind_ok]
  rfl

@[simp] theorem State.withZ_profileEntry (s : State) (z : Block Symbol) (k : Nat) :
    (s.withZ z).profileEntry k = s.profileEntry k := rfl

/-- Settles O40: every coefficient has a quantized value, so the block of them is stored. -/
theorem qntFwdQuantizesInRange : Obligations.QntFwdQuantizesInRange := by
  intro s hp hrange
  refine ⟨s.withZ (quantizedBlock s), ?_, rfl, fun k hk => toInt_blockAt_quantizedBlock hk (hrange k hk)⟩
  rw [exec_qntFwd hp, quantizeBlock_eq_ok_iff.mpr ⟨hrange, rfl⟩, except_bind_ok, finish_ok]

/-- Settles O41: the search for an index without a quantized value stops at the lowest one. -/
theorem qntFwdFaultsAtLowestBadCoefficient : Obligations.QntFwdFaultsAtLowestBadCoefficient := by
  intro s k hp hk hlow hbad
  have hword : encode (.qntFwd 8 8) = 0x20880000 := by decide
  refine ⟨s.raise 0x20880000 ⟨.coefRange, k⟩, ?_, rfl⟩
  rw [exec_qntFwd hp, quantizeBlock_eq_error hk hlow (not_quantizable hbad), except_bind_error, finish_error, hword]

/-! ### The products -/

theorem profileEntry_lt (s : State) (k : Nat) : s.profileEntry k < 256 := BitVec.isLt _

/-- The product of a symbol and a profile entry is an integer of less than 53 bits. -/
theorem dequantizeOne_exact (v : Symbol) {q : Nat} (hq : q < 256) :
    isFinite (dequantizeOne v q) = true ∧ scaledReal (dequantizeOne v q) = v.toInt * q * 2 ^ 1075 := by
  have hv : |v.toInt| ≤ 2 ^ 15 := abs_le.mpr ⟨BitVec.le_toInt v, BitVec.toInt_lt.le⟩
  have hq' : |(q : Int)| ≤ 2 ^ 8 := by rw [Nat.abs_cast]; omega
  have hprod : |v.toInt * q| ≤ 2 ^ 53 := by
    rw [abs_mul]
    exact (mul_le_mul hv hq' (abs_nonneg _) (by norm_num)).trans (by norm_num)
  obtain ⟨hfv, hvv⟩ := ofIntIsExact v.toInt (hv.trans (by norm_num))
  obtain ⟨hfq, hvq⟩ := ofIntIsExact q (hq'.trans (by norm_num))
  obtain ⟨hfp, hvp⟩ := ofIntIsExact (v.toInt * q) hprod
  rw [← hvp]
  exact fmul_exact hfv hfq hfp (by rw [hvv, hvq, hvp, mul_mul_mul_comm, ← mul_assoc])

theorem dequantizeOne_zero {q : Nat} (hq : q < 256) : dequantizeOne 0 q = fZero := by
  obtain ⟨hfin, hval⟩ := dequantizeOne_exact 0 hq
  rw [show (0 : Symbol).toInt = 0 from rfl, zero_mul, zero_mul] at hval
  refine eq_of_scaledReal_eq hfin (by decide) ?_ (by rw [hval, scaledReal_fZero])
  obtain ⟨hfq, -⟩ := ofIntIsExact q (by rw [Nat.abs_cast]; omega)
  rw [dequantizeOne, sign_fmul (ofIntIsExact _ (by decide)).1 hfq, sign_ofInt, sign_ofInt]
  simp [fZero]

theorem blockAt_dequantizedBlock (s : State) {k : Nat} (hk : k < 64) :
    blockAt (dequantizedBlock s) k = dequantizeOne (blockAt s.z k) (s.profileEntry k) := blockAt_ofFn _ hk

/-- Settles O42: the products of 16-bit symbols and profile entries are exact. -/
theorem qntInvMultipliesExactly : Obligations.QntInvMultipliesExactly := by
  intro s hp
  refine ⟨_, exec_qntInv hp, rfl, fun k hk => ?_⟩
  rw [State.withF_f, blockAt_dequantizedBlock s hk]
  obtain ⟨hfin, hval⟩ := dequantizeOne_exact (blockAt s.z k) (profileEntry_lt s k)
  exact ⟨hfin, hval, fun h0 => by rw [h0, dequantizeOne_zero (profileEntry_lt s k)]⟩

end Sys2Proof.Machine
end

section
/-! PROOF. The error of quantizing and dequantizing (41_quant.md R127): half an entry from the rounding of the quotient, and
the error of the division; the division by 1 is exact. -/

namespace Sys2Proof.Machine

theorem isFinite_fdiv_left {a b : F64} (ha : isFinite a = false) (hb : isFinite b = true) :
    isFinite (fdiv a b) = false := by
  obtain ⟨n, g, hdb, -, -⟩ := exists_datum_of_isFinite hb
  obtain hda | ⟨s, hda⟩ := datum_of_not_isFinite ha
  · rw [fdiv_nan (.inl hda)]
    exact isFinite_innerNaN
  · rw [fdiv_inf_fin hda hdb]
    exact isFinite_infinity _

theorem fdiv_exact {a b c : F64} (ha : isFinite a = true) (hb : isFinite b = true) (hb0 : scaledReal b ≠ 0)
    (hc : isFinite c = true) (h : scaledReal c * scaledReal b = scaledReal a * 2 ^ 1075) :
    isFinite (fdiv a b) = true ∧ scaledReal (fdiv a b) = scaledReal c := by
  obtain ⟨m, e, hda, -, -⟩ := exists_datum_of_isFinite ha
  obtain ⟨n, g, hdb, hn, hg⟩ := exists_datum_of_isFinite hb
  exact (fdiv_correctlyRounded hda hdb hn (mt (scaledReal_eq_zero_iff hdb).mpr hb0) hg).exact hb0 hc h

/-- Division by 1 changes no finite value, and only finite data have a finite quotient. -/
theorem scaledReal_fdiv_one {a : F64} (h : isFinite (fdiv a (ofInt 1)) = true) :
    scaledReal (fdiv a (ofInt 1)) = scaledReal a := by
  obtain ⟨hfin, hval⟩ := ofIntIsExact 1 (by norm_num)
  rw [one_mul] at hval
  have ha : isFinite a = true := by
    by_contra hinf
    rw [isFinite_fdiv_left (Bool.not_eq_true _ ▸ hinf) hfin] at h
    contradiction
  exact (fdiv_exact ha hfin (by rw [hval]; positivity) ha (by rw [hval])).2

/-- An integer `r` within half a unit `w` of a quotient `x`, times the divisor `q`, is off a dividend `y` by half of `q`
units and what `q` times the quotient is off it. -/
theorem rounded_mul_error_le {r x y w : Int} (q : Nat) (h : 2 * |r * w - x| ≤ w) :
    2 * |r * q * w - y| ≤ q * w + 2 * |x * q - y| :=
  calc 2 * |r * q * w - y| = 2 * |(r * w - x) * q + (x * q - y)| := by ring_nf
    _ ≤ 2 * (|(r * w - x) * q| + |x * q - y|) := by gcongr; exact abs_add_le _ _
    _ = q * (2 * |r * w - x|) + 2 * |x * q - y| := by rw [abs_mul, Nat.abs_cast]; ring
    _ ≤ q * w + 2 * |x * q - y| := by gcongr

theorem ne_raise_of_not_faulted {s t : State} {w : Word} {r : Raise} (ht : t.faulted = false) : t ≠ s.raise w r := by
  rintro rfl
  cases ht

/-- What the two commands leave in `F` when the first has not faulted. -/
theorem blockAt_f_of_quantize_dequantize {s t u : State} (hfwd : exec (.qntFwd 8 8) s = .next t)
    (ht : t.faulted = false) (hinv : exec (.qntInv 8 8) t = .next u) {k : Nat} (hk : k < 64) :
    Quantizable (blockAt s.f k) (s.profileEntry k) ∧
    blockAt u.f k = dequantizeOne (blockAt (quantizedBlock s) k) (s.profileEntry k) := by
  obtain hdone | ⟨r, hraise⟩ := exec_cases hfwd
  · cases hdone with
    | qntFwd hp hz =>
      obtain ⟨hrange, rfl⟩ := quantizeBlock_eq_ok_iff.mp hz
      rw [exec_qntInv (by rwa [State.withZ_plock])] at hinv
      cases hinv
      refine ⟨hrange k hk, ?_⟩
      rw [State.withF_f, blockAt_dequantizedBlock _ hk, State.withZ_z, State.withZ_profileEntry]
  · exact absurd hraise (ne_raise_of_not_faulted ht)

/-- Settles O43: the quotient is rounded to within a half, and an entry 1 divides exactly. -/
theorem quantizeDequantizeErrorIsBounded : Obligations.QuantizeDequantizeErrorIsBounded := by
  intro s t u _ hfwd ht hinv k hk
  obtain ⟨hquant, hf⟩ := blockAt_f_of_quantize_dequantize hfwd ht hinv hk
  have ⟨hfin, _, _⟩ := hquant
  obtain ⟨-, -, hnear, -⟩ := rhazRoundsHalfAwayFromZero _ hfin
  rw [hf, (dequantizeOne_exact _ (profileEntry_lt s k)).2, toInt_blockAt_quantizedBlock hk hquant]
  have hbound := rounded_mul_error_le (y := scaledReal (blockAt s.f k)) (s.profileEntry k) hnear
  refine ⟨hbound, fun hone => ?_⟩
  rw [hone, Nat.cast_one] at hfin hbound ⊢
  rwa [scaledReal_fdiv_one hfin, one_mul, mul_one (scaledReal _), sub_self, abs_zero, mul_zero, add_zero] at hbound

end Sys2Proof.Machine
end

section
/-! PROOF. The scan order (42_zigzag.md R141 to R143): a permutation of the positions of a block, so a block is known when
its elements in scan order are. -/

namespace Sys2Proof.Machine

theorem map_zzRom_eq_zzScan : (List.range 64).map zzRom = zzScan 64 0 0 true := by decide

theorem map_zzRom_perm : ((List.range 64).map zzRom).Perm (List.range 64) := by decide

/-- Settles O33: both are closed facts about 64 positions. -/
theorem scanTableIsTheScan : Obligations.ScanTableIsTheScan := ⟨map_zzRom_eq_zzScan, map_zzRom_perm⟩

theorem zzRom_lt {k : Nat} (hk : k < 64) : zzRom k < 64 :=
  List.mem_range.mp (map_zzRom_perm.mem_iff.mp (List.mem_map_of_mem (List.mem_range.mpr hk)))

theorem zzRom_inj {i k : Nat} (hi : i < 64) (hk : k < 64) (h : zzRom i = zzRom k) : i = k := by
  have hnodup : ((List.range 64).map zzRom).Nodup := map_zzRom_perm.nodup_iff.mpr List.nodup_range
  exact List.inj_on_of_nodup_map hnodup (List.mem_range.mpr hi) (List.mem_range.mpr hk) h

theorem exists_zzRom_eq {j : Nat} (hj : j < 64) : ∃ k, k < 64 ∧ zzRom k = j := by
  obtain ⟨k, hk, hkj⟩ := List.mem_map.mp (map_zzRom_perm.mem_iff.mpr (List.mem_range.mpr hj))
  exact ⟨k, List.mem_range.mp hk, hkj⟩

/-- A block is its 64 elements in scan order. -/
theorem block_ext_zzRom {α : Type} [Inhabited α] {a b : Block α}
    (h : ∀ k, k < 64 → blockAt a (zzRom k) = blockAt b (zzRom k)) : a = b := by
  refine block_ext fun j hj => ?_
  obtain ⟨k, hk, rfl⟩ := exists_zzRom_eq hj
  exact h k hk

theorem serialize_getD (z : Block Symbol) (d : Symbol) {k : Nat} (hk : k < 64) :
    (serialize z).getD k d = blockAt z (zzRom k) := by
  simp [serialize, hk]

/-- The first `n` writes of a deserialization: no later one overwrites an earlier one, because the positions differ. -/
theorem blockAt_foldl_setIfInBounds_zzRom (seq : Nat → Symbol) (old : Block Symbol) {n k : Nat} (hn : n ≤ 64)
    (hk : k < n) :
    blockAt ((List.range n).foldl (fun z k => z.setIfInBounds (zzRom k) (seq k)) old) (zzRom k) = seq k := by
  induction n with
  | zero => omega
  | succ n ih =>
    rw [List.range_succ, List.foldl_concat, blockAt_set _ _ _ (zzRom_lt (by omega))]
    split
    case isTrue h => rw [zzRom_inj (by omega) (by omega) h]
    case isFalse h =>
      have hne : k ≠ n := fun hkn => h (by rw [hkn])
      exact ih (by omega) (by omega)

theorem blockAt_deserialize (seq : Nat → Symbol) (old : Block Symbol) {k : Nat} (hk : k < 64) :
    blockAt (deserialize seq old) (zzRom k) = seq k :=
  blockAt_foldl_setIfInBounds_zzRom seq old le_rfl hk

end Sys2Proof.Machine
end

section
/-! PROOF. The ZigZag unit (42_zigzag.md R144 to R146): what `ZZ.SER` appends and `ZZ.DES` rebuilds, their faults, and that
each undoes the other. -/

namespace Sys2Proof.Machine

/-- What `ZZ.SER` commits: the block in scan order behind the symbol sequence (R144). -/
def State.withBlockAppended (s : State) : State :=
  s.withSymbols (s.sBuf.writeList 0 s.slen.toNat (serialize s.z)) (s.slen.toNat + 64)

theorem withBlockAppended_slen {s : State} (h : s.slen.toNat + 64 < 2 ^ 23) :
    s.withBlockAppended.slen.toNat = s.slen.toNat + 64 :=
  (BitVec.toNat_ofNat _ 23).trans (Nat.mod_eq_of_lt h)

theorem withBlockAppended_symbolAt (s : State) {k : Nat} (hk : k < 64) :
    s.withBlockAppended.symbolAt (s.slen.toNat + k) = blockAt s.z (zzRom k) := by
  rw [State.symbolAt, State.withBlockAppended, State.withSymbols_sBuf, Memory.read_writeList, length_serialize,
    if_pos (by omega), Nat.add_sub_cancel_left, serialize_getD _ _ hk]

theorem withBlockAppended_symbolAt_of_outside (s : State) {j : Nat}
    (hj : j < s.slen.toNat ∨ s.slen.toNat + 64 ≤ j) : s.withBlockAppended.symbolAt j = s.symbolAt j := by
  rw [State.symbolAt, State.withBlockAppended, State.withSymbols_sBuf, Memory.read_writeList, length_serialize,
    if_neg (by omega), State.symbolAt]

theorem exec_zzSer (s : State) :
    exec (.zzSer 8 8) s = finish (.zzSer 8 8) s (checkRoom s >>= fun _ => .ok s.withBlockAppended) := rfl

theorem exec_zzDes (s : State) (blk : Nat) :
    exec (.zzDes 64 blk) s = finish (.zzDes 64 blk) s
      (checkSlice s blk >>= fun _ => .ok (s.withZ (deserialize (fun k => s.symbolAt (64 * blk + k)) s.z))) := rfl

/-- Settles O44: the block is written at `SLEN`, and the new length fits the register. -/
theorem zzSerAppendsTheBlock : Obligations.ZzSerAppendsTheBlock := by
  intro s hmax hroom
  refine ⟨s.withBlockAppended, ?_, rfl, withBlockAppended_slen (by omega), fun k hk => withBlockAppended_symbolAt s hk,
    fun j hj => withBlockAppended_symbolAt_of_outside s hj⟩
  rw [exec_zzSer, checkRoom_fits hroom, except_bind_ok, finish_ok]

/-- Settles O45: the scan order visits no position twice, so every element written stays. -/
theorem zzDesRebuildsTheBlock : Obligations.ZzDesRebuildsTheBlock := by
  intro s blk hinside
  refine ⟨s.withZ (deserialize (fun k => s.symbolAt (64 * blk + k)) s.z), ?_, rfl, fun k hk => ?_⟩
  · rw [exec_zzDes, checkSlice_inside hinside, except_bind_ok, finish_ok]
  · rw [State.withZ_z, blockAt_deserialize _ _ hk]

/-- Settles O46: the check of the bounds fails, and the fault entry carries the command's own word. -/
theorem zigZagOutOfBoundsTakesSeqBounds : Obligations.ZigZagOutOfBoundsTakesSeqBounds := by
  refine fun s => ⟨fun hfull => ?_, fun blk _ houtside => ?_⟩
  · refine ⟨s.raise (encode (.zzSer 8 8)) ⟨.seqBounds, s.slen.toNat⟩, ?_, rfl⟩
    rw [exec_zzSer, checkRoom_full hfull, except_bind_error, finish_error]
  · refine ⟨s.raise (encode (.zzDes 64 blk)) ⟨.seqBounds, 64 * blk⟩, ?_, rfl⟩
    rw [exec_zzDes, checkSlice_outside houtside, except_bind_error, finish_error]

/-- Settles O47: the second command finds in scan order what the first has put there in scan order. -/
theorem zigZagRoundTrip : Obligations.ZigZagRoundTrip := by
  refine fun s b hmax hroom => ⟨fun hlen => ?_, fun hinside => ?_⟩
  · obtain ⟨t, hser, htframe, htlen, hblock, -⟩ := zzSerAppendsTheBlock s hmax hroom
    obtain ⟨u, hdes, huframe, hrebuilt⟩ := zzDesRebuildsTheBlock t b (by omega)
    have hfaulted : u.faulted = s.faulted := by rw [huframe, htframe]
    refine ⟨t, u, hser, hdes, block_ext_zzRom fun k hk => ?_, hfaulted⟩
    rw [hrebuilt k hk, ← hlen, hblock k hk]
  · obtain ⟨t, hdes, htframe, hrebuilt⟩ := zzDesRebuildsTheBlock s b hinside
    have hparams : t.params = s.params := by rw [htframe]
    have hslen : t.slen = s.slen := by rw [htframe]
    obtain ⟨u, hser, huframe, hulen, hblock, -⟩ := zzSerAppendsTheBlock t (by rwa [hparams]) (by rwa [hparams, hslen])
    have hfaulted : u.faulted = s.faulted := by rw [huframe, htframe]
    rw [hslen] at hulen hblock
    refine ⟨t, u, hdes, hser, hfaulted, hulen, fun k hk => ?_⟩
    rw [hblock k hk, hrebuilt k hk]

end Sys2Proof.Machine
end

section
/-! PROOF. Runs (43_rle.md R161, R162): the code of a sequence expands to it and is its one list of maximal runs; its counts
are those of the sequence (R168). -/

namespace Sys2Proof.Machine

theorem rleDecode_cons (p : Run) (pairs : List Run) :
    rleDecode (p :: pairs) = List.replicate p.1 p.2 ++ rleDecode pairs := rfl

theorem pushSymbol_same (v : Symbol) (n : Nat) (runs : List Run) : pushSymbol v ((n, v) :: runs) = (n + 1, v) :: runs :=
  if_pos rfl

/-- A symbol other than the first value begins a run of its own. -/
theorem pushSymbol_new {v : Symbol} {runs : List Run} (h : ∀ w ∈ (runs.map Prod.snd).head?, v ≠ w) :
    pushSymbol v runs = (1, v) :: runs := by
  cases runs with
  | nil => rfl
  | cons p runs => exact if_neg (h p.2 rfl)

/-! ### The code is a list of maximal runs -/

theorem MaximalRuns.rleDecode_eq {pairs : List Run} {l : List Symbol} (h : MaximalRuns pairs l) : rleDecode pairs = l :=
  h.1

theorem MaximalRuns.count_pos {pairs : List Run} {l : List Symbol} (h : MaximalRuns pairs l) : ∀ p ∈ pairs, 1 ≤ p.1 :=
  h.2.1

theorem maximalRuns_nil : MaximalRuns [] [] := ⟨rfl, by simp, .nil⟩

theorem maximalRuns_cons_iff {p : Run} {pairs : List Run} {l : List Symbol} :
    MaximalRuns (p :: pairs) (List.replicate p.1 p.2 ++ l) ↔
      1 ≤ p.1 ∧ (∀ w ∈ (pairs.map Prod.snd).head?, p.2 ≠ w) ∧ MaximalRuns pairs l := by
  simp only [MaximalRuns, List.flatMap_cons, List.append_cancel_left_eq, List.forall_mem_cons, List.map_cons,
    List.isChain_cons]
  tauto

theorem maximalRuns_pushSymbol (v : Symbol) {pairs : List Run} {l : List Symbol} (h : MaximalRuns pairs l) :
    MaximalRuns (pushSymbol v pairs) (v :: l) := by
  by_cases hv : ∀ w ∈ (pairs.map Prod.snd).head?, v ≠ w
  case pos =>
    rw [pushSymbol_new hv]
    exact maximalRuns_cons_iff.mpr ⟨le_rfl, hv, h⟩
  case neg =>
    obtain _ | ⟨⟨n, w⟩, pairs⟩ := pairs
    · simp at hv
    obtain rfl : v = w := by simpa using hv
    obtain rfl : List.replicate n v ++ rleDecode pairs = l := h.rleDecode_eq
    obtain ⟨-, hnext, hpairs⟩ := maximalRuns_cons_iff.mp h
    rw [pushSymbol_same]
    exact maximalRuns_cons_iff.mpr ⟨Nat.le_add_left 1 n, hnext, hpairs⟩

theorem maximalRuns_rleEncode (l : List Symbol) : MaximalRuns (rleEncode l) l := by
  induction l with
  | nil => exact maximalRuns_nil
  | cons v l ih => exact maximalRuns_pushSymbol v ih

theorem rleDecode_rleEncode (l : List Symbol) : rleDecode (rleEncode l) = l := (maximalRuns_rleEncode l).rleDecode_eq

/-! ### It is the only one -/

/-- A run put before a sequence that does not begin with its value. -/
theorem rleEncode_replicate_append {v : Symbol} {l : List Symbol}
    (h : ∀ w ∈ ((rleEncode l).map Prod.snd).head?, v ≠ w) (n : Nat) :
    rleEncode (List.replicate (n + 1) v ++ l) = (n + 1, v) :: rleEncode l := by
  induction n with
  | zero => exact pushSymbol_new h
  | succ n ih =>
    rw [List.replicate_succ, List.cons_append, rleEncode, ih, pushSymbol_same]

/-- Maximal runs are the code of what they expand to. -/
theorem MaximalRuns.eq_rleEncode {pairs : List Run} {l : List Symbol} (h : MaximalRuns pairs l) :
    pairs = rleEncode l := by
  induction pairs generalizing l with
  | nil => exact congrArg rleEncode h.rleDecode_eq
  | cons p pairs ih =>
    obtain rfl : List.replicate p.1 p.2 ++ rleDecode pairs = l := h.rleDecode_eq
    obtain ⟨hcount, hnext, hpairs⟩ := maximalRuns_cons_iff.mp h
    obtain ⟨n, v⟩ := p
    obtain ⟨n, rfl⟩ := Nat.exists_eq_add_of_le' hcount
    rw [ih hpairs] at hnext
    rw [rleEncode_replicate_append hnext, ← ih hpairs]

/-! ### Counts -/

theorem sum_counts_rleEncode (l : List Symbol) : ((rleEncode l).map Prod.fst).sum = l.length := by
  rw [← length_rleDecode, rleDecode_rleEncode]

theorem count_le_of_mem_rleEncode {l : List Symbol} {p : Run} (h : p ∈ rleEncode l) : p.1 ≤ l.length :=
  (List.le_sum_of_mem (List.mem_map_of_mem h)).trans_eq (sum_counts_rleEncode l)

theorem length_rleEncode_eq_zero {l : List Symbol} : (rleEncode l).length = 0 ↔ l.length = 0 := by
  refine ⟨fun h => ?_, fun h => Nat.le_zero.mp (h ▸ length_rleEncode_le l)⟩
  rw [← sum_counts_rleEncode, List.eq_nil_of_length_eq_zero h]
  rfl

theorem symbolWeight_cons (p : Run) (pairs : List Run) (v : Symbol) :
    symbolWeight (p :: pairs) v = (if p.2 = v then p.1 else 0) + symbolWeight pairs v := by
  by_cases h : p.2 = v <;> simp [symbolWeight, h]

/-- The weight of a symbol counts its occurrences in the expansion. -/
theorem symbolWeight_eq_count (pairs : List Run) (v : Symbol) : symbolWeight pairs v = (rleDecode pairs).count v := by
  induction pairs with
  | nil => rfl
  | cons p pairs ih =>
    rw [symbolWeight_cons, ih, rleDecode_cons, List.count_append, List.count_replicate]
    simp

/-- Settles O52: the code expands to the sequence, and the counts of a pair list are those of its expansion. -/
theorem runCountsAreOccurrenceCounts : Obligations.RunCountsAreOccurrenceCounts := fun l v =>
  ⟨sum_counts_rleEncode l, by rw [symbolWeight_eq_count, rleDecode_rleEncode]⟩

end Sys2Proof.Machine
end

section
/-! PROOF. The words of a pair list (10_state.md R26, 43_rle.md R163, R164): the two words of each pair, and the pairs that
the scan of `RLE.DEC` reads (R166). -/

namespace Sys2Proof.Machine

theorem getD_pairWords (s : State) {k : Nat} (h : k < s.plen.toNat) : s.pairWords.getD k 0 = s.pairWordAt k := by
  rw [List.getD_eq_getElem _ _ (by rwa [length_pairWords]), getElem_pairWords]

/-! ### A pair to its words -/

theorem getD_flatMap_pairToWords (pairs : List Run) {k : Nat} (h : k < pairs.length) :
    (pairs.flatMap pairToWords).getD (2 * k) 0 = BitVec.ofNat 32 pairs[k].1 ∧
      (pairs.flatMap pairToWords).getD (2 * k + 1) 0 = pairs[k].2.signExtend 32 := by
  induction pairs generalizing k with
  | nil => simp at h
  | cons p pairs ih =>
    cases k with
    | zero => exact ⟨rfl, rfl⟩
    | succ k => exact ih (Nat.lt_of_succ_lt_succ h)

theorem toInt_signExtend_symbol (v : Symbol) : -32768 ≤ (v.signExtend 32).toInt ∧ (v.signExtend 32).toInt ≤ 32767 := by
  rw [BitVec.toInt_signExtend_of_le (by decide)]
  have hlow := v.le_toInt
  have hhigh := v.toInt_lt
  omega

theorem setWidth_signExtend_symbol (v : Symbol) : (v.signExtend 32).setWidth 16 = v := by
  ext i hi
  rw [BitVec.getElem_setWidth, BitVec.getLsbD_eq_getElem (by omega), BitVec.getElem_signExtend, dif_pos hi]

/-! ### Words to their pairs -/

theorem pairsOfWords_cons_cons (count value : Word) (rest : List Word) :
    pairsOfWords (count :: value :: rest) = (count.toNat, symbolOfWord value) :: pairsOfWords rest := by
  have hlength : (count :: value :: rest).length / 2 = rest.length / 2 + 1 := Nat.add_div_right _ two_pos
  rw [pairsOfWords, hlength, List.range_succ_eq_map, List.map_cons, List.map_map]
  rfl

theorem totalOfPairs_eq_sum (words : List Word) :
    totalOfPairs words (words.length / 2) = ((pairsOfWords words).map Prod.fst).sum := by
  rw [totalOfPairs, pairsOfWords, List.map_map]
  rfl

theorem isSymbolWord_eq_true {w : Word} : isSymbolWord w = true ↔ -32768 ≤ w.toInt ∧ w.toInt ≤ 32767 := by
  simp [isSymbolWord]

theorem readPair_good {k : Nat} {count value : Word} (hcount : count ≠ 0) (hvalue : isSymbolWord value = true) :
    readPair k count value = .ok (count.toNat, symbolOfWord value) := by
  rw [readPair, if_neg hcount, if_pos hvalue]

theorem WellFormedPairs.cons_cons {count value : Word} {rest : List Word}
    (h : WellFormedPairs (count :: value :: rest)) :
    count ≠ 0 ∧ isSymbolWord value = true ∧ WellFormedPairs rest := by
  obtain ⟨heven, hgood⟩ := h
  obtain ⟨hcount, hvalue⟩ := hgood 0 (by simp)
  refine ⟨hcount, isSymbolWord_eq_true.mpr hvalue, (Nat.add_mod_right _ 2).symm.trans heven, fun k hk => hgood (k + 1) ?_⟩
  simp only [List.length_cons]
  omega

/-- On a well-formed list whose counts fit, the scan of `RLE.DEC` meets no failure. -/
theorem scanExpansion_wellFormed {smax : Nat} : ∀ {k total : Nat} {words : List Word}, WellFormedPairs words →
    total + ((pairsOfWords words).map Prod.fst).sum ≤ smax →
    scanExpansion smax k total words = .ok (pairsOfWords words)
  | k, total, count :: value :: rest, hwords, hfits => by
    obtain ⟨hcount, hvalue, hrest⟩ := hwords.cons_cons
    rw [pairsOfWords_cons_cons, List.map_cons, List.sum_cons] at hfits
    have hroom : ¬ smax < total + count.toNat := by omega
    rw [scanExpansion, readPair_good hcount hvalue, except_bind_ok, if_neg hroom,
      scanExpansion_wellFormed hrest (by omega), pairsOfWords_cons_cons]
    rfl
  | _, _, [_], hwords, _ => absurd hwords.1 (by simp)
  | _, _, [], _, _ => rfl

theorem checkExpansion_wellFormed {s : State} (hwords : WellFormedPairs s.pairWords)
    (hfits : ((pairsOfWords s.pairWords).map Prod.fst).sum ≤ s.params.smax) :
    checkExpansion s = .ok (pairsOfWords s.pairWords) := by
  have heven : s.plen.toNat % 2 = 0 := by rw [← length_pairWords]; exact hwords.1
  rw [checkExpansion, checkParity_even heven, except_bind_ok, scanExpansion_wellFormed hwords (by rwa [Nat.zero_add])]

/-! ### Words that hold a list of runs -/

/-- The pair list of the state holds the count and the sign-extended value of each run (R163). -/
def State.HoldsRuns (s : State) (pairs : List Run) : Prop :=
  s.plen.toNat = 2 * pairs.length ∧
    ∀ (k : Nat) (h : k < pairs.length), (s.pairWordAt (2 * k)).toNat = pairs[k].1 ∧
      s.pairWordAt (2 * k + 1) = pairs[k].2.signExtend 32

theorem State.HoldsRuns.pairsOfWords_eq {s : State} {pairs : List Run} (h : s.HoldsRuns pairs) :
    pairsOfWords s.pairWords = pairs := by
  obtain ⟨hplen, hwords⟩ := h
  have hlength : (pairsOfWords s.pairWords).length = pairs.length := by simp [pairsOfWords, hplen]
  refine List.ext_getElem hlength fun k _ hk => ?_
  obtain ⟨hcount, hvalue⟩ := hwords k hk
  simp only [pairsOfWords, List.getElem_map, List.getElem_range, wordPair]
  rw [getD_pairWords s (by omega), getD_pairWords s (by omega), hcount, hvalue, setWidth_signExtend_symbol]

theorem State.HoldsRuns.wellFormed {s : State} {pairs : List Run} (h : s.HoldsRuns pairs)
    (hcounts : ∀ p ∈ pairs, 1 ≤ p.1) : WellFormedPairs s.pairWords := by
  obtain ⟨hplen, hwords⟩ := h
  refine ⟨by rw [length_pairWords]; omega, fun k hk => ?_⟩
  rw [length_pairWords] at hk
  have hk' : k < pairs.length := by omega
  obtain ⟨hcount, hvalue⟩ := hwords k hk'
  rw [GoodPair, getD_pairWords s (by omega), getD_pairWords s hk, hvalue]
  refine ⟨fun hzero => ?_, toInt_signExtend_symbol _⟩
  have hpos : 1 ≤ (s.pairWordAt (2 * k)).toNat := hcount ▸ hcounts _ (List.getElem_mem hk')
  rw [hzero] at hpos
  exact absurd hpos (by decide)

end Sys2Proof.Machine
end

section
/-! PROOF. The run-length coder (43_rle.md R163, R166, R167): what `RLE.ENC` writes to `P`, what `RLE.DEC` writes to `S`, and
that the second undoes the first. -/

namespace Sys2Proof.Machine

/-! ### `RLE.ENC` -/

/-- What `RLE.ENC` commits: the words of the maximal runs from `P[0]` on (R163). -/
def State.withRunsEncoded (s : State) : State :=
  (s.withPairs (s.pBuf.writeList 0 0 ((rleEncode s.symbols).flatMap pairToWords))
    (2 * (rleEncode s.symbols).length)).withE (emptyInput s.slen.toNat)

theorem exec_rleEnc (s : State) : exec .rleEnc s = .next s.withRunsEncoded := rfl

theorem withRunsEncoded_flagE (s : State) : s.withRunsEncoded.flagE = decide (s.slen.toNat = 0) :=
  beq_eq_decide _ _

/-- `PLEN` has one bit more than `SLEN`, so the new length always fits. -/
theorem withRunsEncoded_plen (s : State) : s.withRunsEncoded.plen.toNat = 2 * (rleEncode s.symbols).length := by
  have hruns := length_rleEncode_le s.symbols
  have hslen := s.slen.isLt
  rw [length_symbols] at hruns
  exact (BitVec.toNat_ofNat _ 24).trans (Nat.mod_eq_of_lt (by omega))

theorem withRunsEncoded_pairWordAt (s : State) (j : Nat) :
    s.withRunsEncoded.pairWordAt j = if j < 2 * (rleEncode s.symbols).length then
      ((rleEncode s.symbols).flatMap pairToWords).getD j 0 else s.pairWordAt j := by
  rw [State.pairWordAt, State.withRunsEncoded, State.withE_pBuf, State.withPairs_pBuf, Memory.read_writeList,
    length_flatMap_pairToWords, Nat.zero_add, Nat.sub_zero, State.pairWordAt]
  simp only [Nat.zero_le, true_and]

theorem withRunsEncoded_holdsRuns (s : State) : s.withRunsEncoded.HoldsRuns (rleEncode s.symbols) := by
  refine ⟨withRunsEncoded_plen s, fun k hk => ?_⟩
  obtain ⟨hcount, hvalue⟩ := getD_flatMap_pairToWords _ hk
  have hle := count_le_of_mem_rleEncode (List.getElem_mem hk)
  have hslen := s.slen.isLt
  rw [length_symbols] at hle
  rw [withRunsEncoded_pairWordAt, withRunsEncoded_pairWordAt, if_pos (by omega), if_pos (by omega), hcount, hvalue]
  exact ⟨(BitVec.toNat_ofNat _ 32).trans (Nat.mod_eq_of_lt (by omega)), rfl⟩

/-- Settles O48: the code is the one list of maximal runs, and no count or length outgrows its word. -/
theorem rleEncWritesTheMaximalRuns : Obligations.RleEncWritesTheMaximalRuns := by
  refine ⟨by decide, fun s => ⟨rleEncode s.symbols, s.withRunsEncoded, maximalRuns_rleEncode _,
    fun _ hothers => hothers.eq_rleEncode, exec_rleEnc s, rfl, withRunsEncoded_plen s, withRunsEncoded_flagE s,
    (withRunsEncoded_holdsRuns s).2, fun j hj => ?_⟩⟩
  rw [withRunsEncoded_pairWordAt, if_neg (by omega)]

/-! ### `RLE.DEC` -/

/-- What `RLE.DEC` commits for the pairs it has read: their expansion from `S[0]` on (R166). -/
def State.withExpansion (s : State) (pairs : List Run) : State :=
  (s.withSymbols (s.sBuf.writeList 0 0 (rleDecode pairs)) (rleDecode pairs).length).withE (emptyInput s.plen.toNat)

theorem exec_rleDec (s : State) :
    exec .rleDec s = finish .rleDec s (checkExpansion s >>= fun pairs => .ok (s.withExpansion pairs)) := rfl

theorem withExpansion_flagE (s : State) (pairs : List Run) :
    (s.withExpansion pairs).flagE = decide (s.plen.toNat = 0) := beq_eq_decide _ _

theorem withExpansion_slen (s : State) {pairs : List Run} (h : (rleDecode pairs).length < 2 ^ 23) :
    (s.withExpansion pairs).slen.toNat = (rleDecode pairs).length :=
  (BitVec.toNat_ofNat _ 23).trans (Nat.mod_eq_of_lt h)

theorem withExpansion_symbolAt (s : State) (pairs : List Run) (j : Nat) :
    (s.withExpansion pairs).symbolAt j =
      if j < (rleDecode pairs).length then (rleDecode pairs).getD j 0 else s.symbolAt j := by
  rw [State.symbolAt, State.withExpansion, State.withE_sBuf, State.withSymbols_sBuf, Memory.read_writeList,
    Nat.zero_add, Nat.sub_zero, State.symbolAt]
  simp only [Nat.zero_le, true_and]

theorem withExpansion_symbols (s : State) {pairs : List Run} (h : (rleDecode pairs).length < 2 ^ 23) :
    (s.withExpansion pairs).symbols = rleDecode pairs := by
  refine List.ext_getElem (by rw [length_symbols, withExpansion_slen s h]) fun k _ hk => ?_
  rw [getElem_symbols, withExpansion_symbolAt, if_pos hk, List.getD_eq_getElem]

/-- Settles O49: the scan meets no failure, and the expansion fits `SLEN`. -/
theorem rleDecExpandsThePairs : Obligations.RleDecExpandsThePairs := by
  intro s hmax hwords hfits
  rw [totalOfPairs_eq_sum] at hfits
  have hlength := length_rleDecode (pairsOfWords s.pairWords)
  have hbound : (rleDecode (pairsOfWords s.pairWords)).length < 2 ^ 23 := by omega
  refine ⟨s.withExpansion (pairsOfWords s.pairWords), ?_, rfl, ?_, withExpansion_flagE s _,
    withExpansion_symbols s hbound, fun j hj => ?_⟩
  · rw [exec_rleDec, checkExpansion_wellFormed hwords hfits, except_bind_ok, finish_ok]
  · rw [withExpansion_slen s hbound, hlength, totalOfPairs_eq_sum]
  · rw [withExpansion_slen s hbound] at hj
    rw [withExpansion_symbolAt, if_neg (by omega)]

/-! ### Both -/

/-- Settles O51: the words that `RLE.ENC` writes are well formed and read back as the runs, which expand to the sequence. -/
theorem rleRoundTrip : Obligations.RleRoundTrip := by
  intro s hmax hslen
  have hruns := withRunsEncoded_holdsRuns s
  have hwords := hruns.wellFormed (maximalRuns_rleEncode s.symbols).count_pos
  have htotal : totalOfPairs s.withRunsEncoded.pairWords (s.withRunsEncoded.pairWords.length / 2) = s.slen.toNat := by
    rw [totalOfPairs_eq_sum, hruns.pairsOfWords_eq, sum_counts_rleEncode, length_symbols]
  have hempty : s.withRunsEncoded.plen.toNat = 0 ↔ s.slen.toNat = 0 := by
    rw [withRunsEncoded_plen, mul_eq_zero_iff_left two_ne_zero, length_rleEncode_eq_zero, length_symbols]
  obtain ⟨u, hdec, hframe, hulen, huE, husymbols, -⟩ :=
    rleDecExpandsThePairs s.withRunsEncoded hmax hwords (htotal.trans_le hslen)
  have hfaulted : u.faulted = s.faulted := by rw [hframe]; rfl
  refine ⟨s.withRunsEncoded, u, exec_rleEnc s, hdec, BitVec.eq_of_toNat_eq (hulen.trans htotal), ?_, hfaulted, ?_⟩
  · rw [husymbols, hruns.pairsOfWords_eq]
    exact rleDecode_rleEncode s.symbols
  · rw [huE, decide_eq_decide.mpr hempty]

end Sys2Proof.Machine
end

section
/-! PROOF. The merges of the tree (44_huffman.md R186 to R188): nodes in the order of their keys, what a turn makes of the live
nodes, and an induction over the turns. -/

namespace Sys2Proof.Machine

/-! ### The order of nodes -/

/-- The key of a node (R186). -/
def HufTree.key (t : HufTree) : ℕ ×ₗ ℕ := toLex (t.freq, t.ord)

theorem HufTree.lower_iff {a b : HufTree} : a.lower b = true ↔ a.key < b.key := by
  simp [lower, key, Prod.Lex.toLex_lt_toLex]

theorem HufTree.lower_eq_false_iff {a b : HufTree} : a.lower b = false ↔ b.key ≤ a.key := by
  rw [← Bool.not_eq_true, lower_iff, not_lt]

theorem HufTree.freq_le_of_key_le {a b : HufTree} (h : a.key ≤ b.key) : a.freq ≤ b.freq :=
  Prod.Lex.monotone_fst _ _ h

theorem HufTree.ord_eq_of_key_eq {a b : HufTree} (h : a.key = b.key) : a.ord = b.ord :=
  congrArg (fun k => (ofLex k).2) h

/-- A pop takes a lowest node. -/
theorem popLowest_key_le {a : HufTree} {rest : List HufTree} :
    ∀ n ∈ a :: rest, (popLowest a rest).1.key ≤ n.key := by
  induction rest generalizing a with
  | nil => exact fun n hn => (congrArg HufTree.key (List.mem_singleton.mp hn)).ge
  | cons b rest ih =>
    rw [popLowest]
    split
    next hba =>
      exact List.forall_mem_cons.mpr ⟨(ih b List.mem_cons_self).trans (HufTree.lower_iff.mp hba).le, ih⟩
    next hba =>
      have hab := HufTree.lower_eq_false_iff.mp (Bool.not_eq_true _ ▸ hba)
      obtain ⟨ha, hrest⟩ := List.forall_mem_cons.mp (ih (a := a))
      exact List.forall_mem_cons.mpr ⟨ha, List.forall_mem_cons.mpr ⟨ha.trans hab, hrest⟩⟩

/-- The nodes that a pop leaves are no lower than the one it takes. -/
theorem popLowest_key_le_rest {a : HufTree} {rest : List HufTree} :
    ∀ n ∈ (popLowest a rest).2, (popLowest a rest).1.key ≤ n.key := fun n hn =>
  popLowest_key_le n ((popLowest_perm a rest).mem_iff.mp (List.mem_cons_of_mem _ hn))

/-! ### One turn -/

theorem exists_popLowest_rest (a b : HufTree) (rest : List HufTree) :
    ∃ c others, (popLowest a (b :: rest)).2 = c :: others :=
  List.exists_cons_of_length_eq_add_one (Nat.succ.inj (popLowest_perm a (b :: rest)).length_eq)

theorem mergeLowest_of_rest (next : Nat) {a c : HufTree} {rest others : List HufTree}
    (h : (popLowest a rest).2 = c :: others) :
    mergeLowest next a rest =
      (.node ((popLowest a rest).1.freq + (popLowest c others).1.freq) next (popLowest a rest).1 (popLowest c others).1,
        (popLowest c others).2) := by
  unfold mergeLowest
  split
  next first hpop =>
    rw [hpop] at h
    cases h
  next first b popped hpop =>
    rw [hpop] at h ⊢
    cases h
    rfl

/-- A turn merges two nodes `a` and `b` that come first in an order of the live nodes by their keys. -/
theorem mergeLowest_cases (next : Nat) (x y : HufTree) (rest : List HufTree) :
    ∃ a b others, (a :: b :: others).Perm (x :: y :: rest) ∧ a.key ≤ b.key ∧ (∀ n ∈ others, b.key ≤ n.key) ∧
      mergeLowest next x (y :: rest) = (.node (a.freq + b.freq) next a b, others) := by
  obtain ⟨c, popped, hrest⟩ := exists_popLowest_rest x y rest
  have hfirst := popLowest_perm x (y :: rest)
  have hlowest := popLowest_key_le_rest (a := x) (rest := y :: rest)
  rw [hrest] at hfirst hlowest
  have hsecond := popLowest_perm c popped
  refine ⟨_, _, _, (hsecond.cons _).trans hfirst, ?_, popLowest_key_le_rest, mergeLowest_of_rest next hrest⟩
  exact hlowest _ (hsecond.mem_iff.mp List.mem_cons_self)

/-! ### All turns -/

/-- What a turn keeps of the live nodes, in whatever order they are held, and the next creation number. -/
structure TurnInvariant (P : Nat → List HufTree → Prop) : Prop where
  perm : ∀ {next live live'}, live.Perm live' → P next live → P next live'
  merge : ∀ {next a b others}, a.key ≤ b.key → (∀ n ∈ others, b.key ≤ n.key) → P next (a :: b :: others) →
    P (next + 1) (.node (a.freq + b.freq) next a b :: others)

theorem TurnInvariant.mergeLoop {P : Nat → List HufTree → Prop} (hP : TurnInvariant P) {n next : Nat} {x : HufTree}
    {rest : List HufTree} (hlength : rest.length = n) (h : P next (x :: rest)) :
    P (next + n) [mergeLoop n next x rest] := by
  induction n generalizing next x rest with
  | zero =>
    rw [List.length_eq_zero_iff.mp hlength] at h
    exact h
  | succ n ih =>
    obtain ⟨y, rest, rfl⟩ := List.exists_cons_of_length_eq_add_one hlength
    have hleft := (length_mergeLowest next x y rest).trans (Nat.succ.inj hlength)
    obtain ⟨a, b, others, hperm, hab, hothers, hmerge⟩ := mergeLowest_cases next x y rest
    rw [hmerge] at hleft
    rw [Machine.mergeLoop, hmerge, Nat.add_comm n 1, ← Nat.add_assoc]
    exact ih hleft (hP.merge hab hothers (hP.perm hperm.symm h))

theorem hufTree_of_leaves {w : Symbol → Nat} {syms : List Symbol} {a : HufTree} {rest : List HufTree}
    (h : hufLeaves w syms = a :: rest) : hufTree w syms = some (mergeLoop rest.length syms.length a rest) := by
  rw [hufTree, h]

/-- What every turn keeps holds of the tree when it holds of the leaves. -/
theorem TurnInvariant.hufTree {P : Nat → List HufTree → Prop} (hP : TurnInvariant P) {w : Symbol → Nat}
    {syms : List Symbol} {root : HufTree} (hroot : hufTree w syms = some root)
    (h : P syms.length (hufLeaves w syms)) : ∃ next, P next [root] := by
  unfold Machine.hufTree at hroot
  split at hroot
  next => cases hroot
  next x rest hleaves =>
    cases hroot
    rw [hleaves] at h
    exact ⟨_, hP.mergeLoop rfl h⟩

/-- The live nodes after `n` turns, the first of them apart; `next` is the first creation number given out (R188). -/
def liveAfter (next : Nat) (a : HufTree) (rest : List HufTree) : (n : Nat) → HufTree × List HufTree
  | 0 => (a, rest)
  | n + 1 => mergeLowest (next + n) (liveAfter next a rest n).1 (liveAfter next a rest n).2

theorem length_liveAfter (next : Nat) (a : HufTree) {rest : List HufTree} {n : Nat} (h : n ≤ rest.length) :
    (liveAfter next a rest n).2.length = rest.length - n := by
  induction n with
  | zero => rfl
  | succ n ih =>
    have hlength := ih (Nat.le_of_succ_le h)
    obtain ⟨b, others, hlive⟩ := List.exists_cons_of_ne_nil
      (List.ne_nil_of_length_pos (hlength ▸ Nat.sub_pos_of_lt h))
    rw [hlive, List.length_cons] at hlength
    rw [liveAfter, hlive, length_mergeLowest]
    omega

/-- The loop goes on from where some turns have led. -/
theorem mergeLoop_liveAfter (next : Nat) (a : HufTree) (rest : List HufTree) (n m : Nat) :
    mergeLoop m (next + n) (liveAfter next a rest n).1 (liveAfter next a rest n).2 =
      (liveAfter next a rest (n + m)).1 := by
  induction m generalizing n with
  | zero => rfl
  | succ m ih => rw [mergeLoop, ← Nat.add_assoc n m 1, Nat.add_right_comm n m 1, ← ih (n + 1)]; rfl

/-! ### The tree is ordered -/

/-- The live nodes are ordered trees, and each creation number was given out once. -/
def OrderedLive (next : Nat) (live : List HufTree) : Prop :=
  (∀ t ∈ live, t.Ordered ∧ t.ord < next) ∧ (live.map HufTree.ord).Nodup

theorem turnInvariant_orderedLive : TurnInvariant OrderedLive where
  perm hperm h := ⟨fun t ht => h.1 t (hperm.mem_iff.mpr ht), (hperm.map _).nodup_iff.mp h.2⟩
  merge := by
    rintro next a b others hab - ⟨hlive, hords⟩
    obtain ⟨⟨haOrdered, -⟩, hlive⟩ := List.forall_mem_cons.mp hlive
    obtain ⟨⟨hbOrdered, -⟩, hothers⟩ := List.forall_mem_cons.mp hlive
    obtain ⟨haNew, hords⟩ := List.nodup_cons.mp hords
    have hlower : a.key < b.key := lt_of_le_of_ne hab fun heq =>
      haNew (HufTree.ord_eq_of_key_eq heq ▸ List.mem_cons_self)
    refine ⟨List.forall_mem_cons.mpr ⟨⟨⟨HufTree.lower_iff.mpr hlower, rfl, haOrdered, hbOrdered⟩, Nat.lt_succ_self _⟩,
      fun t ht => (hothers t ht).imp_right Nat.lt_succ_of_lt⟩, List.nodup_cons.mpr ⟨fun hmem => ?_, hords.of_cons⟩⟩
    obtain ⟨t, ht, hord⟩ := List.mem_map.mp hmem
    exact (hothers t ht).2.ne hord

theorem orderedLive_hufLeaves (w : Symbol → Nat) (syms : List Symbol) :
    OrderedLive syms.length (hufLeaves w syms) := by
  constructor
  · intro t ht
    obtain ⟨c, hc, rfl⟩ := List.mem_map.mp ht
    exact ⟨trivial, (List.mem_zipIdx' hc).1⟩
  · rw [hufLeaves, List.map_map]
    exact List.nodup_zipIdx_map_snd syms

/-- Settles O54: a pop takes the lowest node, and the turns keep the live nodes ordered with distinct creation numbers. -/
theorem treeMergesTheLowestNodes : Obligations.TreeMergesTheLowestNodes := by
  refine ⟨fun a rest => ⟨popLowest_perm a rest, fun n hn => HufTree.lower_eq_false_iff.mpr (popLowest_key_le_rest n hn)⟩,
    fun next a b rest => ?_, fun _ => rfl, fun w v syms => ?_,
    fun pairs => ⟨ascending_distinctSymbols pairs, fun _ => mem_distinctSymbols⟩, fun w syms root hroot => ?_⟩
  · obtain ⟨c, others, hrest⟩ := exists_popLowest_rest a b rest
    exact ⟨c, others, hrest, mergeLowest_of_rest next hrest⟩
  · have hlength : (hufLeaves w (v :: syms)).length = syms.length + 1 := by simp [hufLeaves]
    obtain ⟨a, rest, hleaves⟩ := List.exists_cons_of_length_eq_add_one hlength
    have hrest : rest.length = syms.length := by simpa [hleaves] using hlength
    refine ⟨liveAfter (syms.length + 1) a rest, hleaves.symm, fun _ _ => rfl, ?_, ?_⟩
    · exact List.eq_nil_of_length_eq_zero (by rw [length_liveAfter _ _ hrest.ge, hrest, Nat.sub_self])
    · have hloop := mergeLoop_liveAfter (syms.length + 1) a rest 0 syms.length
      rw [Nat.zero_add] at hloop
      rw [hufTree_of_leaves hleaves, hrest]
      exact congrArg some hloop
  · obtain ⟨next, hlive, -⟩ := turnInvariant_orderedLive.hufTree hroot (orderedLive_hufLeaves w syms)
    exact (hlive root List.mem_cons_self).1

end Sys2Proof.Machine
end

section
/-! PROOF. The codes of a tree: the paths to its leaves (44_huffman.md R189), their Kraft sum (R196), and the bound on their
lengths by the total weight (R192). -/

namespace Sys2Proof.Machine

/-! ### Paths -/

/-- The walk gives each leaf the path to it. -/
theorem mem_walkTree_iff {t : HufTree} {pre : List Bool} {v : Symbol} {code : List Bool} :
    (v, code) ∈ walkTree t pre ↔ ∃ path, code = pre ++ path ∧ t.LeafAt v path := by
  induction t generalizing pre with
  | leaf u w o =>
    rw [walkTree, List.mem_singleton, Prod.mk.injEq]
    constructor
    · rintro ⟨rfl, rfl⟩
      exact ⟨[], (List.append_nil _).symm, rfl, rfl⟩
    · rintro ⟨path, rfl, rfl, rfl⟩
      exact ⟨rfl, List.append_nil _⟩
  | node w o l r ihl ihr =>
    rw [walkTree, List.mem_append, ihl, ihr]
    constructor
    · rintro (⟨path, rfl, hleaf⟩ | ⟨path, rfl, hleaf⟩)
      · exact ⟨false :: path, (List.append_cons ..).symm, hleaf⟩
      · exact ⟨true :: path, (List.append_cons ..).symm, hleaf⟩
    · rintro ⟨_ | ⟨_ | _, path⟩, rfl, hleaf⟩
      · exact hleaf.elim
      · exact .inl ⟨path, List.append_cons .., hleaf⟩
      · exact .inr ⟨path, List.append_cons .., hleaf⟩

theorem mem_hufCodes_node {w o : Nat} {l r : HufTree} {v : Symbol} {path : List Bool} :
    (v, path) ∈ hufCodes (some (.node w o l r)) ↔ (HufTree.node w o l r).LeafAt v path := by
  rw [hufCodes, mem_walkTree_iff]
  simp only [List.nil_append, exists_eq_left']

/-! ### Completeness -/

/-- The codes below a branch fill the share of all strings that begin with its path. -/
theorem kraft_walkTree (t : HufTree) (pre : List Bool) :
    ((walkTree t pre).map fun c => (1 / 2 : ℚ) ^ c.2.length).sum = (1 / 2) ^ pre.length := by
  induction t generalizing pre with
  | leaf v w o => exact List.sum_singleton
  | node w o l r ihl ihr =>
    rw [walkTree, List.map_append, List.sum_append, ihl, ihr, List.length_append, List.length_append,
      List.length_singleton, List.length_singleton, pow_succ]
    ring

theorem kraft_hufCodes {root : Option HufTree} (h : 2 ≤ (hufCodes root).length) :
    ((hufCodes root).map fun c => (1 / 2 : ℚ) ^ c.2.length).sum = 1 := by
  match root with
  | none => exact absurd h (by decide)
  | some (.leaf v w o) => exact absurd h (Nat.not_succ_le_self 1)
  | some (.node w o l r) => exact (kraft_walkTree _ []).trans (pow_zero _)

/-- Settles O55: the walk follows the paths, the leaves are the distinct symbols, and each branch halves its share. -/
theorem huffmanCodesArePrefixFreeAndComplete : Obligations.HuffmanCodesArePrefixFreeAndComplete := by
  refine ⟨fun _ _ _ _ _ _ => mem_hufCodes_node, fun pairs => ⟨rfl, map_fst_hufCodes _ _, pairwise_hufCodes _, fun h => ?_⟩⟩
  rw [← (map_fst_hufCodes (symbolWeight pairs) (distinctSymbols pairs)).length_eq, List.length_map] at h
  exact kraft_hufCodes h

/-! ### Depth -/

/-- The length of the longest path to a leaf. -/
def HufTree.height : HufTree → Nat
  | .leaf _ _ _ => 0
  | .node _ _ l r => max l.height r.height + 1

theorem HufTree.LeafAt.length_le {v : Symbol} {t : HufTree} {path : List Bool} (h : t.LeafAt v path) :
    path.length ≤ t.height := by
  induction t generalizing path with
  | leaf u w o => exact (congrArg List.length h.1).le
  | node w o l r ihl ihr =>
    obtain _ | ⟨_ | _, path⟩ := path
    · exact h.elim
    · exact Nat.succ_le_succ ((ihl h).trans (le_max_left _ _))
    · exact Nat.succ_le_succ ((ihr h).trans (le_max_right _ _))

/-- The frequency of the more frequent child; a leaf counts as if it had a child of frequency 1. -/
def HufTree.childFreq : HufTree → Nat
  | .leaf _ _ _ => 1
  | .node _ _ l r => max l.freq r.freq

/-- The frequencies of a tree and of its more frequent child are at least the Fibonacci numbers of its height (R192). -/
def HufTree.FibHeavy (t : HufTree) : Prop := Nat.fib (t.height + 2) ≤ t.freq ∧ Nat.fib (t.height + 1) ≤ t.childFreq

/-- Every live node is heavy for its height, and none is less frequent than a child of another: when that child was
popped, what the other is made of was live. -/
def FibLive (live : List HufTree) : Prop :=
  (∀ t ∈ live, t.FibHeavy) ∧ ∀ t ∈ live, ∀ u ∈ live, t.childFreq ≤ u.freq

theorem HufTree.FibHeavy.node {a b : HufTree} {next : Nat} (ha : a.FibHeavy) (hb : b.FibHeavy)
    (hab : a.childFreq ≤ b.freq) (hba : b.childFreq ≤ a.freq) :
    (HufTree.node (a.freq + b.freq) next a b).FibHeavy := by
  obtain ⟨haFreq, haChild⟩ := ha
  obtain ⟨hbFreq, hbChild⟩ := hb
  rw [FibHeavy, height, HufTree.freq, childFreq, Nat.fib_add_two]
  obtain hle | hle := le_total a.height b.height
  · rw [max_eq_right hle]
    exact ⟨add_le_add (hbChild.trans hba) hbFreq, hbFreq.trans (le_max_right _ _)⟩
  · rw [max_eq_left hle]
    exact ⟨(add_le_add (haChild.trans hab) haFreq).trans_eq (Nat.add_comm _ _), haFreq.trans (le_max_left _ _)⟩

theorem turnInvariant_fibLive : TurnInvariant fun _ live => FibLive live where
  perm hperm h := ⟨fun t ht => h.1 t (hperm.mem_iff.mpr ht),
    fun t ht u hu => h.2 t (hperm.mem_iff.mpr ht) u (hperm.mem_iff.mpr hu)⟩
  merge := by
    rintro next a b others hab hbOthers ⟨hheavy, hchild⟩
    have ha : a ∈ a :: b :: others := List.mem_cons_self
    have hb : b ∈ a :: b :: others := List.mem_cons_of_mem a List.mem_cons_self
    have hmem : ∀ t ∈ others, t ∈ a :: b :: others := fun t ht => List.mem_cons_of_mem a (List.mem_cons_of_mem b ht)
    refine ⟨List.forall_mem_cons.mpr ⟨?_, fun t ht => hheavy t (hmem t ht)⟩,
      List.forall_mem_cons.mpr ⟨List.forall_mem_cons.mpr ⟨?_, fun u hu => ?_⟩, fun t ht =>
        List.forall_mem_cons.mpr ⟨?_, fun u hu => hchild t (hmem t ht) u (hmem u hu)⟩⟩⟩
    · exact .node (hheavy a ha) (hheavy b hb) (hchild a ha b hb) (hchild b hb a ha)
    · exact max_le (Nat.le_add_right _ _) (Nat.le_add_left _ _)
    · have hbu := HufTree.freq_le_of_key_le (hbOthers u hu)
      exact max_le ((HufTree.freq_le_of_key_le hab).trans hbu) hbu
    · exact (hchild t (hmem t ht) a ha).trans (Nat.le_add_right _ _)

theorem fibLive_hufLeaves {w : Symbol → Nat} {syms : List Symbol} (h : ∀ v ∈ syms, 1 ≤ w v) :
    FibLive (hufLeaves w syms) := by
  have hleaf : ∀ t ∈ hufLeaves w syms, t.height = 0 ∧ t.childFreq = 1 ∧ 1 ≤ t.freq := by
    intro t ht
    obtain ⟨c, hc, rfl⟩ := List.mem_map.mp ht
    exact ⟨rfl, rfl, h _ (List.fst_mem_of_mem_zipIdx hc)⟩
  refine ⟨fun t ht => ?_, fun t ht u hu => (hleaf t ht).2.1.trans_le (hleaf u hu).2.2⟩
  obtain ⟨hheight, hchild, hfreq⟩ := hleaf t ht
  rw [HufTree.FibHeavy, hheight, hchild]
  exact ⟨hfreq, le_rfl⟩

theorem turnInvariant_totalFreq (total : Nat) : TurnInvariant fun _ live => (live.map HufTree.freq).sum = total where
  perm hperm h := ((hperm.map _).sum_eq.symm).trans h
  merge _ _ h := (Nat.add_assoc _ _ _).trans h

/-- The frequency of the root is the sum of the weights. -/
theorem freq_of_hufTree {w : Symbol → Nat} {syms : List Symbol} {root : HufTree} (h : hufTree w syms = some root) :
    root.freq = (syms.map w).sum := by
  have hleaves : (hufLeaves w syms).map HufTree.freq = syms.map w := by
    have hsyms := congrArg (List.map w) (List.zipIdx_map_fst 0 syms)
    rw [List.map_map] at hsyms
    rw [hufLeaves, List.map_map]
    exact hsyms
  obtain ⟨_, htotal⟩ := (turnInvariant_totalFreq _).hufTree h (congrArg List.sum hleaves)
  exact htotal

/-- A code of length `d` of two or more symbols needs a total weight of `Fib(d + 2)` (R192); a single symbol has a code
of one bit (R190). -/
theorem length_eq_one_or_fib_le_of_mem_hufCodes {w : Symbol → Nat} {syms : List Symbol} (hpos : ∀ v ∈ syms, 1 ≤ w v)
    {c : Symbol × List Bool} (h : c ∈ hufCodes (hufTree w syms)) :
    c.2.length = 1 ∨ Nat.fib (c.2.length + 2) ≤ (syms.map w).sum := by
  cases hroot : hufTree w syms with
  | none => rw [hroot] at h; cases h
  | some root =>
    rw [hroot] at h
    rw [← freq_of_hufTree hroot]
    obtain ⟨_, hheavy, -⟩ := turnInvariant_fibLive.hufTree hroot (fibLive_hufLeaves hpos)
    obtain ⟨hfreq, -⟩ := hheavy root List.mem_cons_self
    cases root with
    | leaf v f o => exact .inl (congrArg (fun c => c.2.length) (List.mem_singleton.mp h))
    | node f o l r =>
      exact .inr ((Nat.fib_mono (Nat.add_le_add_right (mem_hufCodes_node.mp h).length_le 2)).trans hfreq)

end Sys2Proof.Machine
end

section
/-! PROOF. `HUF.BUILD` (44_huffman.md R193, R194): the pairs it reads, the code that is too long, and the weights and entries it
writes. -/

namespace Sys2Proof.Machine

/-! ### The checks -/

/-- On a well-formed list the scan of `PairCheck` meets no failure (R164). -/
theorem scanPairs_wellFormed : ∀ {k : Nat} {words : List Word}, WellFormedPairs words →
    scanPairs k words = .ok (pairsOfWords words)
  | k, count :: value :: rest, hwords => by
    obtain ⟨hcount, hvalue, hrest⟩ := hwords.cons_cons
    rw [scanPairs, readPair_good hcount hvalue, except_bind_ok, scanPairs_wellFormed hrest, pairsOfWords_cons_cons]
    rfl
  | _, [_], hwords => absurd hwords.1 (by simp)
  | _, [], _ => rfl

theorem checkPairs_wellFormed {s : State} (hwords : WellFormedPairs s.pairWords) :
    checkPairs s = .ok (pairsOfWords s.pairWords) := by
  have heven : s.plen.toNat % 2 = 0 := by rw [← length_pairWords]; exact hwords.1
  rw [checkPairs, checkParity_even heven, except_bind_ok, scanPairs_wellFormed hwords]

theorem checkCodeLengths_short {pairs : List Run}
    (h : ∀ v ∈ distinctSymbols pairs, (codeString (pairCodes pairs) v).length ≤ 32) :
    checkCodeLengths pairs = .ok () := by
  have hnone : (distinctSymbols pairs).find? (fun v => Config.clMax < (codeString (pairCodes pairs) v).length) = none :=
    List.find?_eq_none.mpr fun v hv hlong => (h v hv).not_gt (of_decide_eq_true hlong)
  rw [checkCodeLengths, hnone]

/-- The symbols are in ascending order, so the first one with a long code is the lowest (R193). -/
theorem checkCodeLengths_long {pairs : List Run} {v : Symbol} (hv : v ∈ distinctSymbols pairs)
    (hlong : 32 < (codeString (pairCodes pairs) v).length)
    (hlower : ∀ u : Symbol, u.toInt < v.toInt → (codeString (pairCodes pairs) u).length ≤ 32) :
    checkCodeLengths pairs = .error ⟨.codeTooLong, symbolIndex v⟩ := by
  obtain ⟨before, after, hsplit⟩ := List.append_of_mem hv
  have hbefore : ∀ u ∈ before, u.toInt < v.toInt := fun u hu => by
    have hascending := ascending_distinctSymbols pairs
    rw [hsplit] at hascending
    exact (List.pairwise_append.mp hascending).2.2 u hu v List.mem_cons_self
  have hfirst : (distinctSymbols pairs).find? (fun v => Config.clMax < (codeString (pairCodes pairs) v).length) =
      some v :=
    List.find?_eq_some_iff_append.mpr ⟨decide_eq_true hlong, before, after, hsplit, fun u hu =>
      Bool.not_eq_true' _ ▸ decide_eq_false (hlower u (hbefore u hu)).not_gt⟩
  rw [checkCodeLengths, hfirst]

/-- What `HUF.BUILD` commits for the pairs it has read (R194). -/
def State.withCodesBuilt (s : State) (pairs : List Run) : State :=
  ((s.withTables (tableOf 0 (fun v => BitVec.ofNat 64 (symbolWeight pairs v)) (distinctSymbols pairs))
    (distinctSymbols pairs).length
    (tableOf CodeEntry.empty (fun v => codeEntry (codeString (pairCodes pairs) v)) (distinctSymbols pairs))).withE
      (emptyInput s.plen.toNat)).withS1 (singleSymbol (distinctSymbols pairs).length)

theorem exec_hufBuild (s : State) :
    exec .hufBuild s = finish .hufBuild s
      (checkPairs s >>= fun pairs => checkCodeLengths pairs >>= fun _ => .ok (s.withCodesBuilt pairs)) := rfl

/-! ### Symbols without a weight -/

theorem codeString_eq_nil {codes : List (Symbol × List Bool)} {v : Symbol} (h : v ∉ codes.map Prod.fst) :
    codeString codes v = [] := by
  have hnone : codes.find? (fun c => c.1 = v) = none :=
    List.find?_eq_none.mpr fun c hc heq => h (List.mem_map.mpr ⟨c, hc, of_decide_eq_true heq⟩)
  rw [codeString, hnone]

theorem codeString_of_not_mem {pairs : List Run} {v : Symbol} (h : v ∉ distinctSymbols pairs) :
    codeString (pairCodes pairs) v = [] :=
  codeString_eq_nil fun hmem => h ((map_fst_hufCodes _ _).mem_iff.mp hmem)

theorem symbolWeight_of_not_mem {pairs : List Run} {v : Symbol} (h : v ∉ distinctSymbols pairs) :
    symbolWeight pairs v = 0 := by
  have hnil : pairs.filter (fun p => p.2 = v) = [] :=
    List.filter_eq_nil_iff.mpr fun p hp heq => h (mem_distinctSymbols.mpr ⟨p, hp, of_decide_eq_true heq⟩)
  rw [symbolWeight, hnil]
  rfl

/-- Settles O56: `PairCheck` accepts the list, and the symbol with the long code is listed. -/
theorem hufBuildFaultsOnTooLongCode : Obligations.HufBuildFaultsOnTooLongCode := by
  intro s v hwords hlong hlower
  have hv : v ∈ distinctSymbols (pairsOfWords s.pairWords) := by
    by_contra hmem
    rw [codeString_of_not_mem hmem] at hlong
    exact absurd hlong (by decide)
  refine ⟨s.raise (encode .hufBuild) ⟨.codeTooLong, symbolIndex v⟩, ?_, rfl⟩
  rw [exec_hufBuild, checkPairs_wellFormed hwords, except_bind_ok, checkCodeLengths_long hv hlong hlower,
    except_bind_error, finish_error]

/-! ### The tables -/

/-- A weight adds up at most 2^23 counts of 32 bits. -/
theorem toNat_weight {s : State} {pairs : List Run} (h : checkPairs s = .ok pairs) (v : Symbol) :
    (BitVec.ofNat 64 (symbolWeight pairs v)).toNat = symbolWeight pairs v := by
  obtain ⟨_, -, hscan⟩ := except_bind_eq_ok.mp h
  obtain ⟨hlength, hcounts⟩ := scanPairs_counts hscan
  have hle := symbolWeight_le (fun p hp => (hcounts p hp).2.le) v
  have hplen := s.plen.isLt
  rw [length_pairWords] at hlength
  exact (BitVec.toNat_ofNat _ 64).trans (Nat.mod_eq_of_lt (by omega))

theorem withCodesBuilt_weightOf {s : State} {pairs : List Run} (h : checkPairs s = .ok pairs) (v : Symbol) :
    ((s.withCodesBuilt pairs).weightOf v).toNat = symbolWeight pairs v := by
  rw [State.weightOf, State.withCodesBuilt, State.withS1_freq, State.withE_freq, State.withTables_freq, read_tableOf]
  split
  next => exact toNat_weight h v
  next hv => exact (symbolWeight_of_not_mem hv).symm

theorem withCodesBuilt_codeEntryOf (s : State) (pairs : List Run) (v : Symbol) :
    (s.withCodesBuilt pairs).codeEntryOf v = codeEntry (codeString (pairCodes pairs) v) := by
  rw [State.codeEntryOf, codeOf, State.withCodesBuilt, State.withS1_code, State.withE_code, State.withTables_code,
    read_tableOf]
  split
  next => rfl
  next hv => rw [codeString_of_not_mem hv]; rfl

theorem withCodesBuilt_nsym (s : State) (pairs : List Run) :
    (s.withCodesBuilt pairs).nsym.toNat = (distinctSymbols pairs).length := by
  have hle := length_distinctSymbols_le pairs
  exact (BitVec.toNat_ofNat _ 17).trans (Nat.mod_eq_of_lt (by omega))

theorem withCodesBuilt_weightOf_eq_zero_iff {s : State} {pairs : List Run} (h : checkPairs s = .ok pairs) (v : Symbol) :
    (s.withCodesBuilt pairs).weightOf v = 0 ↔ v ∉ distinctSymbols pairs := by
  obtain ⟨_, -, hscan⟩ := except_bind_eq_ok.mp h
  rw [← BitVec.toNat_inj, withCodesBuilt_weightOf h]
  constructor
  · exact fun hzero hv => (symbolWeight_pos (fun p hp => ((scanPairs_counts hscan).2 p hp).1) hv).ne' hzero
  · exact fun hv => symbolWeight_of_not_mem hv

theorem withCodesBuilt_len_eq_zero_iff (s : State) {pairs : List Run} {v : Symbol}
    (hshort : (codeString (pairCodes pairs) v).length ≤ 32) :
    ((s.withCodesBuilt pairs).codeEntryOf v).len = 0 ↔ v ∉ distinctSymbols pairs := by
  rw [← BitVec.toNat_inj, withCodesBuilt_codeEntryOf, len_codeEntry hshort]
  constructor
  · exact fun hzero hv => codeString_ne_nil hv (List.eq_nil_of_length_eq_zero hzero)
  · exact fun hv => congrArg List.length (codeString_of_not_mem hv)

/-- An only symbol has the code "0" (R190). -/
theorem codeString_of_single {pairs : List Run} {v : Symbol} (h : distinctSymbols pairs = [v]) :
    codeString (pairCodes pairs) v = [false] := by
  have hcodes : pairCodes pairs = [(v, [false])] := by rw [pairCodes, h]; rfl
  simp [hcodes, codeString]

theorem hufBuild_completes {s : State} (hwords : WellFormedPairs s.pairWords)
    (hshort : ∀ v ∈ distinctSymbols (pairsOfWords s.pairWords),
      (codeString (pairCodes (pairsOfWords s.pairWords)) v).length ≤ 32) :
    exec .hufBuild s = .next (s.withCodesBuilt (pairsOfWords s.pairWords)) := by
  rw [exec_hufBuild, checkPairs_wellFormed hwords, except_bind_ok, checkCodeLengths_short hshort, except_bind_ok,
    finish_ok]

/-- Settles O53: the tables hold the weight and the code of each distinct symbol and nothing for any other. -/
theorem hufBuildWritesWeightsAndCodes : Obligations.HufBuildWritesWeightsAndCodes := by
  intro s hwords hshort
  have hpairs := checkPairs_wellFormed hwords
  have hcheck := checkCodeLengths_short fun v _ => hshort v
  refine ⟨s.withCodesBuilt (pairsOfWords s.pairWords), hufBuild_completes hwords fun v _ => hshort v, rfl,
    withCodesBuilt_weightOf hpairs, (CodeTableSound.built hpairs hcheck).nsymFreq.symm, fun v =>
      ⟨withCodesBuilt_codeEntryOf s _ v, (withCodesBuilt_len_eq_zero_iff s (hshort v)).trans
        (withCodesBuilt_weightOf_eq_zero_iff hpairs v).symm⟩, beq_eq_decide _ _, ?_, ?_⟩
  · rw [withCodesBuilt_nsym]
    exact beq_eq_decide _ _
  · intro hsingle v hweight
    rw [withCodesBuilt_nsym] at hsingle
    obtain ⟨u, hu⟩ := List.length_eq_one_iff.mp hsingle
    have hv := not_not.mp ((withCodesBuilt_weightOf_eq_zero_iff hpairs v).not.mp hweight)
    rw [hu, List.mem_singleton] at hv
    rw [withCodesBuilt_codeEntryOf, hv, codeString_of_single hu]
    rfl

end Sys2Proof.Machine
end

section
/-! PROOF. `HUF.PACK` (44_huffman.md R198 to R200): the bits of the code strings, and the bytes they fill. -/

namespace Sys2Proof.Machine

/-! ### The code bits -/

/-- The code bits of a sequence, one code string after the other (R198). -/
def codeBits (table : Memory CodeEntry) (syms : List Symbol) : List Bool :=
  syms.flatMap fun v => (codeOf table v).string

/-- Packing completes exactly when every symbol has a code, with the code bits. -/
theorem encodeSymbols_eq_ok_iff {table : Memory CodeEntry} {i : Nat} {syms : List Symbol} {bits : List Bool} :
    encodeSymbols table i syms = .ok bits ↔ (∀ v ∈ syms, (codeOf table v).len ≠ 0) ∧ bits = codeBits table syms := by
  induction syms generalizing i bits with
  | nil => exact ⟨fun h => by cases h; simp [codeBits], fun h => congrArg Except.ok h.2.symm⟩
  | cons v syms ih =>
    rw [encodeSymbols, List.forall_mem_cons]
    split
    next hlen => exact iff_of_false (fun h => nomatch h) fun h => h.1.1 hlen
    next hlen =>
      rw [except_bind_eq_ok]
      constructor
      · rintro ⟨rest, hrest, ⟨⟩⟩
        obtain ⟨hsyms, rfl⟩ := ih.mp hrest
        exact ⟨⟨hlen, hsyms⟩, rfl⟩
      · rintro ⟨⟨-, hsyms⟩, rfl⟩
        exact ⟨_, ih.mpr ⟨hsyms, rfl⟩, rfl⟩

/-- A code length has 6 bits and `SLEN` 23, so `BITLEN` does not wrap. -/
theorem length_codeBits_lt (s : State) : (codeBits s.code s.symbols).length < 2 ^ 29 := by
  have hle : (codeBits s.code s.symbols).length ≤ s.symbols.length * 63 := by
    rw [codeBits, List.length_flatMap]
    refine (List.sum_le_card_nsmul _ 63 fun n hn => ?_).trans_eq (by rw [List.length_map, smul_eq_mul])
    obtain ⟨v, -, rfl⟩ := List.mem_map.mp hn
    rw [length_string]
    exact Nat.le_of_lt_succ (codeOf s.code v).len.isLt
  have hslen := s.slen.isLt
  rw [length_symbols] at hle
  omega

/-! ### The bytes -/

/-- The eight bits of a byte, a missing one 0, are the bits of its value, the first the most significant. -/
theorem packByte_eq (b : List Bool) :
    packByte b = BitVec.ofNat 8 (bitsValue ((List.range 8).map fun t => b.getD t false)) := by
  have hbit : ∀ (x : Bool) (n : Nat), (if x then n else 0) = n * x.toNat := fun x n => by cases x <;> simp
  have hrange : List.range 8 = [0, 1, 2, 3, 4, 5, 6, 7] := rfl
  rw [packByte]
  congr 1
  simp only [hrange, hbit, bitsValue, List.map_cons, List.map_nil, List.sum_cons, List.sum_nil, List.foldl_cons,
    List.foldl_nil]
  ring

/-- Bit `t` of a string stands at position `7 − t` of its first byte (R198). -/
theorem getLsbD_packByte (b : List Bool) {t : Nat} (h : t < 8) : (packByte b).getLsbD (7 - t) = b.getD t false := by
  have hlt : bitsValue ((List.range 8).map fun t => b.getD t false) < 2 ^ 8 := bitsValue_lt _
  have hbit := testBit_bitsValue ((List.range 8).map fun t => b.getD t false) (m := t) h
  rw [packByte_eq, ← BitVec.testBit_toNat, BitVec.toNat_ofNat, Nat.mod_eq_of_lt hlt]
  simpa using hbit

theorem getD_packBytes {n q : Nat} (b : List Bool) (h : q < n) :
    (packBytes n b).getD q 0 = packByte (b.drop (8 * q)) := by
  induction n generalizing q b with
  | zero => exact absurd h (Nat.not_lt_zero q)
  | succ n ih =>
    cases q with
    | zero => rfl
    | succ q =>
      rw [packBytes, List.getD_cons_succ, ih _ (Nat.lt_of_succ_lt_succ h), List.drop_drop, Nat.mul_succ, Nat.add_comm]

/-- Bit `m` of a string stands at position `7 − (m mod 8)` of byte `⌊m/8⌋` (R198, R199). -/
theorem getLsbD_getD_packBytes (b : List Bool) {n m : Nat} (h : m < 8 * n) :
    ((packBytes n b).getD (m / 8) 0).getLsbD (7 - m % 8) = b.getD m false := by
  rw [getD_packBytes b (Nat.div_lt_of_lt_mul h), getLsbD_packByte _ (Nat.mod_lt m (by decide)),
    List.getD_eq_getElem?_getD, List.getD_eq_getElem?_getD, List.getElem?_drop, Nat.div_add_mod]

/-! ### The command -/

/-- What `HUF.PACK` commits for the code bits it has made (R200). -/
def State.withBitsPacked (s : State) (bits : List Bool) : State :=
  ((s.withStream (s.bs.writeList 0 0 (packBytes ((bits.length + 7) / 8) bits)) bits.length
    ((bits.length + 7) / 8)).withE (emptyInput s.slen.toNat)).withPB (partialByte bits.length)

theorem exec_hufPack (s : State) :
    exec .hufPack s = finish .hufPack s
      (encodeSymbols s.code 0 s.symbols >>= fun bits => .ok (s.withBitsPacked bits)) := rfl

theorem hufPack_completes {s : State} (h : ∀ v ∈ s.symbols, (s.codeEntryOf v).len ≠ 0) :
    exec .hufPack s = .next (s.withBitsPacked (codeBits s.code s.symbols)) := by
  rw [exec_hufPack, encodeSymbols_eq_ok_iff.mpr ⟨h, rfl⟩, except_bind_ok, finish_ok]

theorem withBitsPacked_byteAt (s : State) (bits : List Bool) (q : Nat) :
    (s.withBitsPacked bits).byteAt q =
      if q < (bits.length + 7) / 8 then (packBytes ((bits.length + 7) / 8) bits).getD q 0 else s.byteAt q := by
  rw [State.byteAt, State.withBitsPacked, State.withPB_bs, State.withE_bs, State.withStream_bs, Memory.read_writeList,
    length_packBytes, Nat.zero_add, Nat.sub_zero, State.byteAt]
  simp only [Nat.zero_le, true_and]

theorem withBitsPacked_bit (s : State) (bits : List Bool) {m : Nat} (h : m < 8 * ((bits.length + 7) / 8)) :
    ((s.withBitsPacked bits).byteAt (m / 8)).getLsbD (7 - m % 8) = bits.getD m false := by
  rw [withBitsPacked_byteAt, if_pos (Nat.div_lt_of_lt_mul h), getLsbD_getD_packBytes bits h]

theorem withBitsPacked_bitLen (s : State) {bits : List Bool} (h : bits.length < 2 ^ 29) :
    (s.withBitsPacked bits).bitLen.toNat = bits.length :=
  (BitVec.toNat_ofNat _ 32).trans (Nat.mod_eq_of_lt (by omega))

theorem withBitsPacked_bsLen (s : State) {bits : List Bool} (h : bits.length < 2 ^ 29) :
    (s.withBitsPacked bits).bsLen.toNat = (bits.length + 7) / 8 :=
  (BitVec.toNat_ofNat _ 32).trans (Nat.mod_eq_of_lt (by omega))

/-- Settles O57: no length wraps, and each byte holds its eight bits. -/
theorem hufPackPacksTheCodeBits : Obligations.HufPackPacksTheCodeBits := by
  intro s hcoded
  have hlength := length_codeBits_lt s
  have hbits := withBitsPacked_bitLen s hlength
  have hbytes := withBitsPacked_bsLen s hlength
  refine ⟨s.withBitsPacked (codeBits s.code s.symbols), hufPack_completes hcoded, rfl, hbits, by rw [hbytes, hbits],
    fun m hm => ?_, fun q hq => ?_, beq_eq_decide _ _, ?_⟩
  · rw [hbytes] at hm
    exact withBitsPacked_bit s _ hm
  · rw [hbytes] at hq
    rw [withBitsPacked_byteAt, if_neg hq.not_gt]
  · rw [hbits]
    exact (congrArg not (beq_eq_decide _ _)).trans decide_not.symm

end Sys2Proof.Machine
end

section
/-! PROOF. The reference decoder on a sound code table (44_huffman.md R206, R207): it finds a symbol at the end of its code
string and none before, so it reads packed code bits back. -/

namespace Sys2Proof.Machine

theorem streamBits_withBitsPacked (s : State) (bits : List Bool) :
    streamBits (s.withBitsPacked bits).bs bits.length = bits := by
  refine List.ext_getElem (by simp [streamBits]) fun m _ hm => ?_
  simp only [streamBits, List.getElem_map, List.getElem_range]
  exact (withBitsPacked_bit s bits (by omega)).trans (List.getD_eq_getElem _ _ hm)

/-- The value of an entry's code string is its bits, when they fit its length. -/
theorem bitsValue_string {e : CodeEntry} (h : e.bits.toNat < 2 ^ e.len.toNat) : bitsValue e.string = e.bits.toNat := by
  have hlt := bitsValue_lt e.string
  rw [length_string] at hlt
  refine Nat.eq_of_testBit_eq fun i => ?_
  by_cases hi : i < e.len.toNat
  · have hm : e.len.toNat - 1 - i < e.string.length := by rw [length_string]; omega
    have hindex : e.len.toNat - 1 - (e.len.toNat - 1 - i) = i := by omega
    have hbit := testBit_bitsValue e.string hm
    rw [length_string, hindex] at hbit
    rw [hbit, BitVec.testBit_toNat]
    simp [CodeEntry.string, hindex]
  · have hpow := Nat.pow_le_pow_right two_pos (not_lt.mp hi)
    rw [Nat.testBit_lt_two_pow (hlt.trans_le hpow), Nat.testBit_lt_two_pow (h.trans_le hpow)]

theorem ofNat_symbolIndex (v : Symbol) : BitVec.ofNat 16 (symbolIndex v) = v := by
  rw [symbolIndex, BitVec.ofNat_toNat, BitVec.setWidth_eq]

namespace CodeTableSound

variable {t : State} {v : Symbol}

/-- The test of the decoder: an entry of the table has the length and value of a string when that is its code string. -/
theorem matches_iff (ht : CodeTableSound t) {c : Nat × CodeEntry} (hc : c ∈ t.code) (b : List Bool) :
    (c.2.len.toNat = b.length ∧ c.2.bits.toNat = bitsValue b ∧ b.length ≠ 0) ↔ c.2.string = b := by
  obtain ⟨hpos, hle, hbits⟩ := ht.entry c hc
  constructor
  · rintro ⟨hlen, hvalue, -⟩
    have hb : b.length ≤ 32 := hlen ▸ hle
    have hentry : c.2 = codeEntry b := by
      rw [codeEntry, ← hlen, ← hvalue, BitVec.ofNat_toNat, BitVec.ofNat_toNat, BitVec.setWidth_eq, BitVec.setWidth_eq]
    rw [hentry, string_codeEntry hb]
  · rintro rfl
    rw [length_string]
    exact ⟨rfl, (bitsValue_string hbits).symm, Nat.ne_of_gt hpos⟩

theorem mem_code (hv : (t.codeEntryOf v).len ≠ 0) : (symbolIndex v, t.codeEntryOf v) ∈ t.code :=
  (Memory.read_eq_default_or_mem CodeEntry.empty t.code (symbolIndex v)).resolve_left fun hempty =>
    hv (congrArg CodeEntry.len hempty)

theorem eq_of_string_prefix (ht : CodeTableSound t) (hv : (t.codeEntryOf v).len ≠ 0) {c : Nat × CodeEntry}
    (hc : c ∈ t.code) (h : c.2.string <+: (t.codeEntryOf v).string) : c = (symbolIndex v, t.codeEntryOf v) :=
  ht.prefixFree c hc _ (mem_code hv) h

/-- At the end of a symbol's code string the decoder finds the symbol. -/
theorem symbolOfCode_string (ht : CodeTableSound t) (hv : (t.codeEntryOf v).len ≠ 0) :
    symbolOfCode t.code (t.codeEntryOf v).string.length (bitsValue (t.codeEntryOf v).string) = some v := by
  unfold symbolOfCode
  split
  next c hfind =>
    have hc := List.mem_of_find?_eq_some hfind
    have hmatch := List.find?_some hfind
    have hstring := (ht.matches_iff hc _).mp (of_decide_eq_true hmatch)
    rw [ht.eq_of_string_prefix hv hc (hstring ▸ List.prefix_rfl)]
    exact congrArg some (ofNat_symbolIndex v)
  next hfind =>
    exact absurd (decide_eq_true ((ht.matches_iff (mem_code hv) _).mpr rfl)) (List.find?_eq_none.mp hfind _ (mem_code hv))

/-- Inside a symbol's code string the decoder finds none. -/
theorem symbolOfCode_inside (ht : CodeTableSound t) (hv : (t.codeEntryOf v).len ≠ 0) {b todo : List Bool}
    (h : b ++ todo = (t.codeEntryOf v).string) (htodo : todo ≠ []) :
    symbolOfCode t.code b.length (bitsValue b) = none := by
  have hnone : t.code.find? (fun c => c.2.len.toNat = b.length ∧ c.2.bits.toNat = bitsValue b ∧ b.length ≠ 0) = none := by
    refine List.find?_eq_none.mpr fun c hc hmatch => ?_
    have hstring := (ht.matches_iff hc b).mp (of_decide_eq_true hmatch)
    have hentry := ht.eq_of_string_prefix hv hc (hstring ▸ ⟨todo, h⟩)
    rw [hentry, ← h] at hstring
    exact htodo (List.append_right_eq_self.mp hstring)
  rw [symbolOfCode, hnone]

/-- The decoder, after part of a symbol's code string, reads the rest of it and gives the symbol. -/
theorem decodeBits_string (ht : CodeTableSound t) (hv : (t.codeEntryOf v).len ≠ 0) (rest : List Bool)
    {read todo : List Bool} (h : read ++ todo = (t.codeEntryOf v).string) (htodo : todo ≠ []) :
    decodeBits t.code (todo ++ rest) read.length (bitsValue read) = (decodeBits t.code rest 0 0).map (v :: ·) := by
  induction todo generalizing read with
  | nil => exact absurd rfl htodo
  | cons b todo ih =>
    have hlength : read.length + 1 = (read ++ [b]).length := by
      rw [List.length_append, List.length_singleton]
    have hvalue : 2 * bitsValue read + b.toNat = bitsValue (read ++ [b]) := by rw [bitsValue_concat, Nat.bit_val]
    rw [List.append_cons] at h
    rw [List.cons_append, decodeBits, hlength, hvalue]
    cases todo with
    | nil =>
      rw [List.append_nil] at h
      rw [h, ht.symbolOfCode_string hv]
      rfl
    | cons x todo =>
      have hshort : (read ++ [b]).length < 32 := by
        have hle := (ht.entry _ (mem_code hv)).2.1
        rw [← length_string, ← h, List.length_append, List.length_cons] at hle
        exact Nat.lt_of_lt_of_le (Nat.lt_add_of_pos_right (Nat.succ_pos _)) hle
      rw [ht.symbolOfCode_inside hv h (List.cons_ne_nil x todo)]
      exact (if_neg hshort.ne).trans (ih h (List.cons_ne_nil x todo))

theorem decodeBits_codeBits (ht : CodeTableSound t) {syms : List Symbol}
    (h : ∀ v ∈ syms, (t.codeEntryOf v).len ≠ 0) : decodeBits t.code (codeBits t.code syms) 0 0 = some syms := by
  induction syms with
  | nil => rfl
  | cons v syms ih =>
    obtain ⟨hv, hsyms⟩ := List.forall_mem_cons.mp h
    have hne : (t.codeEntryOf v).string ≠ [] := fun hnil =>
      hv (BitVec.eq_of_toNat_eq (by rw [← length_string, hnil]; rfl))
    have hcode := ht.decodeBits_string hv (codeBits t.code syms) (read := []) rfl hne
    rw [ih hsyms] at hcode
    exact hcode

end CodeTableSound

/-- A command that has left the engine unfaulted has completed. -/
theorem completes_of_unfaulted {i : Instr} {s t : State} (h : exec i s = .next t) (ht : t.faulted = false) :
    Completes s i t := by
  obtain hdone | ⟨r, rfl⟩ := exec_cases h
  · exact hdone
  · cases ht

theorem CodeTableSound.of_hufBuild {s t : State} (h : Completes s .hufBuild t) : CodeTableSound t := by
  cases h with
  | hufBuild wellFormed lengths => exact (CodeTableSound.built wellFormed lengths).of_eq rfl rfl rfl

/-- Settles O59: the table is sound, and the stream holds the code bits of the sequence. -/
theorem decoderInvertsThePacker : Obligations.DecoderInvertsThePacker := by
  intro s t v u _ hbuild ht hcode _ hpack hu
  have hsound := CodeTableSound.of_hufBuild (completes_of_unfaulted hbuild ht)
  cases completes_of_unfaulted hpack hu with
  | hufPack coded =>
    obtain ⟨hcoded, rfl⟩ := encodeSymbols_eq_ok_iff.mp coded
    have hstream := streamBits_withBitsPacked v (codeBits v.code v.symbols)
    rw [← withBitsPacked_bitLen v (length_codeBits_lt v)] at hstream
    refine (congrArg (decodeBits v.code · 0 0) hstream).trans ?_
    rw [hcode] at hcoded ⊢
    exact hsound.decodeBits_codeBits hcoded

end Sys2Proof.Machine
end

section
/-! PROOF. The encode call of the host (44_huffman.md R207, 46_host_sequences.md R234): the weights of a run-length code add up to
the length of the sequence, so no code is too long (R192). -/

namespace Sys2Proof.Machine

theorem mem_distinctSymbols_of_mem_rleDecode {pairs : List Run} {v : Symbol} (h : v ∈ rleDecode pairs) :
    v ∈ distinctSymbols pairs := by
  obtain ⟨p, hp, hvp⟩ := List.mem_flatMap.mp h
  exact mem_distinctSymbols.mpr ⟨p, hp, (List.eq_of_mem_replicate hvp).symm⟩

/-- The weights of the distinct symbols add up to the length of the expansion. -/
theorem sum_symbolWeight (pairs : List Run) :
    ((distinctSymbols pairs).map (symbolWeight pairs)).sum = (rleDecode pairs).length := by
  have hcard := Multiset.sum_count_eq_card (s := (distinctSymbols pairs).toFinset) (m := rleDecode pairs) fun _ hv =>
    List.mem_toFinset.mpr (mem_distinctSymbols_of_mem_rleDecode (Multiset.mem_coe.mp hv))
  simp only [Multiset.coe_count, Multiset.coe_card] at hcard
  rwa [List.sum_toFinset _ (nodup_distinctSymbols pairs), ← funext (symbolWeight_eq_count pairs)] at hcard

/-- Counts that add up to at most 2^22 give no code longer than 31 bits (R192). -/
theorem length_codeString_le {pairs : List Run} (hcounts : ∀ p ∈ pairs, 1 ≤ p.1)
    (htotal : (rleDecode pairs).length ≤ 2 ^ 22) {v : Symbol} (hv : v ∈ distinctSymbols pairs) :
    (codeString (pairCodes pairs) v).length ≤ 31 := by
  have hpos : ∀ u ∈ distinctSymbols pairs, 1 ≤ symbolWeight pairs u := fun _ hu => symbolWeight_pos hcounts hu
  obtain hone | hfib := length_eq_one_or_fib_le_of_mem_hufCodes hpos (mem_pairCodes hv)
  · exact hone.trans_le (by decide)
  · have hfib34 : 2 ^ 22 < Nat.fib 34 := by norm_num
    by_contra hlong
    have hmono := Nat.fib_mono (show 34 ≤ (codeString (pairCodes pairs) v).length + 2 by omega)
    rw [sum_symbolWeight] at hfib
    exact hfib34.not_ge (hmono.trans (hfib.trans htotal))

theorem withCodesBuilt_faulted (s : State) (pairs : List Run) : (s.withCodesBuilt pairs).faulted = s.faulted := rfl

theorem withBitsPacked_faulted (s : State) (bits : List Bool) : (s.withBitsPacked bits).faulted = s.faulted := rfl

/-- What the encode call commits (R234). -/
def State.withEncoded (s : State) : State :=
  (s.withRunsEncoded.withCodesBuilt (rleEncode s.symbols)).withBitsPacked
    (codeBits (s.withRunsEncoded.withCodesBuilt (rleEncode s.symbols)).code s.symbols)

theorem withEncoded_faulted (s : State) : s.withEncoded.faulted = s.faulted :=
  (withBitsPacked_faulted _ _).trans (withCodesBuilt_faulted _ _)

/-- Settles O60: the weights are those of the sequence, so the codes fit, every symbol has one, and the decoder inverts the
packer. -/
theorem hufEncodeNeverFaultsAndDecodes : Obligations.HufEncodeNeverFaultsAndDecodes := by
  intro s hs hslen
  have hruns := withRunsEncoded_holdsRuns s
  have hcounts := (maximalRuns_rleEncode s.symbols).count_pos
  have hexpansion := rleDecode_rleEncode s.symbols
  have hshort : ∀ v ∈ distinctSymbols (rleEncode s.symbols),
      (codeString (pairCodes (rleEncode s.symbols)) v).length ≤ 32 := fun v hv =>
    (length_codeString_le hcounts (by rw [hexpansion, length_symbols]; exact hslen) hv).trans (Nat.le_succ 31)
  have hbuild : exec .hufBuild s.withRunsEncoded = .next (s.withRunsEncoded.withCodesBuilt (rleEncode s.symbols)) := by
    rw [hufBuild_completes (hruns.wellFormed hcounts) (by rwa [hruns.pairsOfWords_eq]), hruns.pairsOfWords_eq]
  have hpack : exec .hufPack (s.withRunsEncoded.withCodesBuilt (rleEncode s.symbols)) = .next s.withEncoded :=
    hufPack_completes fun v hv =>
      have hmem := mem_distinctSymbols_of_mem_rleDecode (hexpansion.symm ▸ hv)
      (withCodesBuilt_len_eq_zero_iff _ (hshort v hmem)).not.mpr (not_not.mpr hmem)
  have hencoded := (withEncoded_faulted s).trans hs
  have hbuilt := (withCodesBuilt_faulted s.withRunsEncoded (rleEncode s.symbols)).trans hs
  have hdecode := decoderInvertsThePacker s.withRunsEncoded _ _ _ hs hbuild hbuilt rfl hbuilt hpack hencoded
  exact ⟨s.withRunsEncoded, _, s.withEncoded, exec_rleEnc s, hbuild, hpack, hencoded, hdecode⟩

end Sys2Proof.Machine
end

section
/-! PROOF. `NOP` and `ABORT` (45_control.md R220, R221). -/

namespace Sys2Proof.Machine

theorem exec_nop (s : State) : exec .nop s = .next s := rfl

theorem exec_abort (s : State) : exec .abort s = .next s.aborted := rfl

/-- An empty weight table has the weight 0 for every symbol (R55). -/
theorem weightOf_of_freq_eq_nil {s : State} (h : s.freq = []) (v : Symbol) : s.weightOf v = 0 := by
  rw [State.weightOf, h, Memory.read_nil]

/-- An empty code table has a code of length 0 for every symbol (R55). -/
theorem codeEntryOf_of_code_eq_nil {s : State} (h : s.code = []) (v : Symbol) : s.codeEntryOf v = CodeEntry.empty := by
  rw [State.codeEntryOf, codeOf, h, Memory.read_nil]

/-- Settles O23: `NOP` is the command of the zero word, and commits the state it is given. -/
theorem nopChangesNothing : Obligations.NopChangesNothing :=
  ⟨encodedCommandDecodesToItself .nop rfl, exec_nop⟩

/-- Settles O24: `ABORT` commits `State.aborted`, a record update whose two tables are empty. -/
theorem abortClearsFaultAndStream : Obligations.AbortClearsFaultAndStream :=
  ⟨encodedCommandDecodesToItself .abort rfl, fun s => ⟨s.aborted, exec_abort s, rfl, fun v =>
    ⟨weightOf_of_freq_eq_nil s.aborted_freq v, codeEntryOf_of_code_eq_nil s.aborted_code v⟩⟩⟩

end Sys2Proof.Machine
end

section
/-! PROOF. Taking a fault (60_exceptions.md R261 to R264, R272, R273): a failed check is the fault entry, which command can
raise which fault, and what becomes of a word that is no command or comes to a faulted engine. -/

namespace Sys2Proof.Machine

/-! ### A command word at the port -/

theorem step_command {s : State} {w : Word} {rest : List HostAction}
    (h : s.pending = .write .reg 1 (.word w) :: rest) :
    step s = onNext (execute w (s.withPending rest)) fun t => t.answered .ok := step_serves h

/-- Settles O6: the step serves the write of `CMD`, the gate is open, and nothing decodes. -/
theorem illegalWordTakesIllegalCommand : Obligations.IllegalWordTakesIllegalCommand := by
  intro s w e rest hpending hfaulted hdecode
  rw [step_command hpending, execute_illegal (s := s.withPending rest) hfaulted hdecode]
  rfl

theorem decode_eq_abort_iff {w : Word} : decode w = .ok .abort ↔ w = 0x01000000 :=
  ⟨eq_of_decode_abort, fun h => h ▸ encodedCommandDecodesToItself .abort rfl⟩

/-- Settles O7: the gate lets the one word of `ABORT` pass and gives every other the effect of `NOP`. -/
theorem faultedEngineRunsOnlyAbort : Obligations.FaultedEngineRunsOnlyAbort := by
  intro s w rest hpending hfaulted
  rw [step_command hpending, execute_faulted (s := s.withPending rest) w hfaulted]
  refine ⟨fun hother => ?_, fun habort => ⟨_, exec_abort _, ?_⟩⟩
  · rw [if_neg (decode_eq_abort_iff.not.mpr hother)]
    rfl
  · rw [if_pos (decode_eq_abort_iff.mpr habort)]
    rfl

/-! ### A check that fails -/

/-- A command whose first check fails takes the fault that the check raises. -/
theorem faultEntry_of_check_eq_error {α : Type} {i : Instr} {s : State} {check : Except Raise α}
    {k : α → Except Raise State} {e : Raise} (hexec : exec i s = finish i s (check >>= k)) (hcheck : check = .error e) :
    ∃ t, exec i s = .next t ∧ FaultEntry e.cause.errCode e.info (encode i) s t :=
  ⟨s.raise (encode i) e, by rw [hexec, hcheck, except_bind_error, finish_error], rfl⟩

/-- The commands with a declared shape check it before anything else (R271). -/
theorem exec_checks_shape (s : State) (rows cols : Nat) :
    ∀ i ∈ [Instr.dctFwd rows cols, .dctInv rows cols, .qntFwd rows cols, .qntInv rows cols, .zzSer rows cols],
      ∃ k, exec i s = finish i s (checkShape rows cols >>= k) := by
  simp only [List.forall_mem_cons]
  exact ⟨⟨_, rfl⟩, ⟨_, rfl⟩, ⟨_, rfl⟩, ⟨_, rfl⟩, ⟨_, rfl⟩, List.forall_mem_nil _⟩

/-- Settles O25: the check of the shape or of the length stands first. -/
theorem wrongShapeTakesDimensionMismatch : Obligations.WrongShapeTakesDimensionMismatch := by
  refine fun s => ⟨fun rows cols _ _ hwrong i hi => ?_, fun n blk _ _ hwrong => ?_⟩
  · obtain ⟨k, hexec⟩ := exec_checks_shape s rows cols i hi
    exact faultEntry_of_check_eq_error hexec (checkShape_wrong hwrong)
  · exact faultEntry_of_check_eq_error rfl (checkLength_wrong hwrong)

/-- The quantizer commands check the profile next after the shape (R271). -/
theorem exec_checks_profile (s : State) :
    ∀ i ∈ [Instr.qntFwd 8 8, .qntInv 8 8], ∃ k, exec i s = finish i s (checkProfile s >>= k) := by
  simp only [List.forall_mem_cons]
  exact ⟨⟨_, rfl⟩, ⟨_, rfl⟩, List.forall_mem_nil _⟩

/-- Settles O26: the shape is right, so the check of the profile is the one that fails. -/
theorem quantizerWithoutProfileFaults : Obligations.QuantizerWithoutProfileFaults := by
  intro s hunlocked i hi
  obtain ⟨k, hexec⟩ := exec_checks_profile s i hi
  exact faultEntry_of_check_eq_error hexec (checkProfile_unlocked hunlocked)

/-! ### The faults of each command -/

/-- `Ends codes P r`: a computation that raises a fault raises one with a code in `codes`, and a value it gives has the
property `P`. -/
def Ends {α : Type} (codes : List (BitVec 8)) (P : α → Prop) : Except Raise α → Prop
  | .ok a => P a
  | .error e => e.cause.errCode ∈ codes

@[simp] theorem ends_ok {α : Type} {codes : List (BitVec 8)} {P : α → Prop} {a : α} :
    Ends codes P (.ok a) ↔ P a := Iff.rfl

theorem Ends.ite {α : Type} {codes : List (BitVec 8)} {P : α → Prop} {p : Prop} [Decidable p] {x y : Except Raise α}
    (hx : Ends codes P x) (hy : Ends codes P y) : Ends codes P (if p then x else y) := by
  split <;> assumption

/-- A check: of the values it lets pass nothing is said. -/
abbrev RaisesOnly {α : Type} (codes : List (BitVec 8)) (check : Except Raise α) : Prop :=
  Ends codes (fun _ => True) check

theorem RaisesOnly.bind {α β : Type} {codes : List (BitVec 8)} {P : β → Prop} {check : Except Raise α}
    {k : α → Except Raise β} (hcheck : RaisesOnly codes check) (hk : ∀ a, Ends codes P (k a)) :
    Ends codes P (check >>= k) := by
  cases check with
  | ok a => exact hk a
  | error e => exact hcheck

/-- When every fault of the result has a listed code and every state it commits is unfaulted, a faulted state is a listed
fault entry. -/
theorem faultEntry_of_finish {i : Instr} {s t : State} {r : Except Raise State} (h : finish i s r = .next t)
    (ht : t.faulted = true) (hr : Ends (faultCodesOf i) (fun u => u.faulted = false) r) :
    ∃ errCode ∈ faultCodesOf i, ∃ info, FaultEntry errCode info (encode i) s t := by
  cases r with
  | ok u =>
    cases h
    exact absurd ht (Bool.eq_false_iff.mp hr)
  | error e =>
    cases h
    exact ⟨e.cause.errCode, hr, e.info, rfl⟩

section
variable {codes : List (BitVec 8)}

theorem raisesOnly_checkShape (rows cols : Nat) (h : 1 ∈ codes) : RaisesOnly codes (checkShape rows cols) :=
  Ends.ite trivial h

theorem raisesOnly_checkLength (n : Nat) (h : 1 ∈ codes) : RaisesOnly codes (checkLength n) :=
  Ends.ite trivial h

theorem raisesOnly_checkProfile (s : State) (h : 3 ∈ codes) : RaisesOnly codes (checkProfile s) :=
  Ends.ite trivial h

theorem raisesOnly_checkRoom (s : State) (h : 4 ∈ codes) : RaisesOnly codes (checkRoom s) :=
  Ends.ite trivial h

theorem raisesOnly_checkSlice (s : State) (blk : Nat) (h : 4 ∈ codes) : RaisesOnly codes (checkSlice s blk) :=
  Ends.ite trivial h

theorem raisesOnly_quantizeBlock (s : State) (h : 5 ∈ codes) : RaisesOnly codes (quantizeBlock s) := by
  unfold quantizeBlock
  split
  · exact h
  · trivial

theorem raisesOnly_checkParity (n : Nat) (h : 6 ∈ codes) : RaisesOnly codes (checkParity n) :=
  Ends.ite h trivial

theorem raisesOnly_readPair (k : Nat) (count value : Word) (h : 6 ∈ codes) :
    RaisesOnly codes (readPair k count value) := Ends.ite h (Ends.ite trivial h)

theorem raisesOnly_scanPairs (h : 6 ∈ codes) : ∀ (k : Nat) (words : List Word), RaisesOnly codes (scanPairs k words)
  | k, count :: value :: rest =>
    (raisesOnly_readPair k count value h).bind fun _ => (raisesOnly_scanPairs h (k + 2) rest).bind fun _ => trivial
  | _, [_] => trivial
  | _, [] => trivial

theorem raisesOnly_checkPairs (s : State) (h : 6 ∈ codes) : RaisesOnly codes (checkPairs s) :=
  (raisesOnly_checkParity _ h).bind fun _ => raisesOnly_scanPairs h 0 s.pairWords

theorem raisesOnly_scanExpansion (h4 : 4 ∈ codes) (h6 : 6 ∈ codes) :
    ∀ (smax k total : Nat) (words : List Word), RaisesOnly codes (scanExpansion smax k total words)
  | smax, k, total, count :: value :: rest =>
    (raisesOnly_readPair k count value h6).bind fun p =>
      Ends.ite h4 ((raisesOnly_scanExpansion h4 h6 smax (k + 2) (total + p.1) rest).bind fun _ => trivial)
  | _, _, _, [_] => trivial
  | _, _, _, [] => trivial

theorem raisesOnly_checkExpansion (s : State) (h4 : 4 ∈ codes) (h6 : 6 ∈ codes) :
    RaisesOnly codes (checkExpansion s) :=
  (raisesOnly_checkParity _ h6).bind fun _ => raisesOnly_scanExpansion h4 h6 s.params.smax 0 0 s.pairWords

theorem raisesOnly_encodeSymbols (table : Memory CodeEntry) (h : 7 ∈ codes) (i : Nat) (syms : List Symbol) :
    RaisesOnly codes (encodeSymbols table i syms) := by
  induction syms generalizing i with
  | nil => trivial
  | cons v syms ih => exact Ends.ite h ((ih (i + 1)).bind fun _ => trivial)

theorem raisesOnly_checkCodeLengths (pairs : List Run) (h : 8 ∈ codes) :
    RaisesOnly codes (checkCodeLengths pairs) := by
  unfold checkCodeLengths
  split
  · exact h
  · trivial

end

/-- Settles O18: each check raises the faults of its own rule, and what a command commits has the `FAULT` bit it met. -/
theorem faultsArePreciseAndListed : Obligations.FaultsArePreciseAndListed := by
  intro i s t hs h ht
  cases i with
  | nop =>
    cases h
    exact absurd ht (Bool.eq_false_iff.mp hs)
  | abort =>
    cases h
    exact absurd ht Bool.false_ne_true
  | dctFwd rows cols =>
    refine faultEntry_of_finish h ht ?_
    exact (raisesOnly_checkShape rows cols (by simp [faultCodesOf])).bind fun _ => by simpa using hs
  | dctInv rows cols =>
    refine faultEntry_of_finish h ht ?_
    exact (raisesOnly_checkShape rows cols (by simp [faultCodesOf])).bind fun _ => by simpa using hs
  | qntFwd rows cols =>
    refine faultEntry_of_finish h ht ?_
    exact (raisesOnly_checkShape rows cols (by simp [faultCodesOf])).bind fun _ =>
      (raisesOnly_checkProfile s (by simp [faultCodesOf])).bind fun _ =>
        (raisesOnly_quantizeBlock s (by simp [faultCodesOf])).bind fun _ => by simpa using hs
  | qntInv rows cols =>
    refine faultEntry_of_finish h ht ?_
    exact (raisesOnly_checkShape rows cols (by simp [faultCodesOf])).bind fun _ =>
      (raisesOnly_checkProfile s (by simp [faultCodesOf])).bind fun _ => by simpa using hs
  | zzSer rows cols =>
    refine faultEntry_of_finish h ht ?_
    exact (raisesOnly_checkShape rows cols (by simp [faultCodesOf])).bind fun _ =>
      (raisesOnly_checkRoom s (by simp [faultCodesOf])).bind fun _ => by simpa using hs
  | zzDes n blk =>
    refine faultEntry_of_finish h ht ?_
    exact (raisesOnly_checkLength n (by simp [faultCodesOf])).bind fun _ =>
      (raisesOnly_checkSlice s blk (by simp [faultCodesOf])).bind fun _ => by simpa using hs
  | rleEnc =>
    cases h
    exact absurd ht (Bool.eq_false_iff.mp hs)
  | rleDec =>
    refine faultEntry_of_finish h ht ?_
    exact (raisesOnly_checkExpansion s (by simp [faultCodesOf]) (by simp [faultCodesOf])).bind fun _ => by simpa using hs
  | hufBuild =>
    refine faultEntry_of_finish h ht ?_
    exact (raisesOnly_checkPairs s (by simp [faultCodesOf])).bind fun pairs =>
      (raisesOnly_checkCodeLengths pairs (by simp [faultCodesOf])).bind fun _ => by simpa using hs
  | hufPack =>
    refine faultEntry_of_finish h ht ?_
    exact (raisesOnly_encodeSymbols s.code (by simp [faultCodesOf]) 0 s.symbols).bind fun _ => by simpa using hs

end Sys2Proof.Machine
end

section
/-! PROOF. The first failure of a scan (43_rle.md R164, R166, 44_huffman.md R201): a failure that stands behind what passes is
the failure of the whole scan. -/

namespace Sys2Proof.Machine

/-! ### The pair list -/

theorem drop_pair {words : List Word} {k : Nat} (h : 2 * k + 1 < words.length) :
    words.drop (2 * k) = words.getD (2 * k) 0 :: words.getD (2 * k + 1) 0 :: words.drop (2 * (k + 1)) := by
  rw [List.drop_eq_getElem_cons (by omega), List.drop_eq_getElem_cons h, List.getD_eq_getElem _ _ (by omega),
    List.getD_eq_getElem _ _ h]
  rfl

theorem readPair_of_goodPair {words : List Word} {k : Nat} (h : GoodPair words k) (a : Nat) :
    readPair a (words.getD (2 * k) 0) (words.getD (2 * k + 1) 0) = .ok (wordPair words k) := by
  obtain ⟨hcount, hvalue⟩ := h
  exact readPair_good hcount (isSymbolWord_eq_true.mpr hvalue)

/-- The fault of a bad pair: at its count when that is zero, else at its value (R164). -/
def pairFault (words : List Word) (k : Nat) : Raise :=
  ⟨.malformedPairs, if words.getD (2 * k) 0 = 0 then 2 * k else 2 * k + 1⟩

theorem readPair_of_not_goodPair {words : List Word} {k : Nat} (h : ¬ GoodPair words k) :
    readPair (2 * k) (words.getD (2 * k) 0) (words.getD (2 * k + 1) 0) = .error (pairFault words k) := by
  unfold readPair pairFault
  split
  · rfl
  next hcount => rw [if_neg fun hvalue => h ⟨hcount, isSymbolWord_eq_true.mp hvalue⟩]

theorem totalOfPairs_succ (words : List Word) (k : Nat) :
    totalOfPairs words (k + 1) = totalOfPairs words k + (wordPair words k).1 := by
  simp [totalOfPairs, List.range_succ]

/-- A failure of `PairCheck` behind good pairs is the failure of the whole scan (R164). -/
theorem scanPairs_eq_error_of_drop {words : List Word} {e : Raise} {k : Nat} (hk : 2 * k ≤ words.length)
    (hgood : ∀ j, j < k → GoodPair words j) (h : scanPairs (2 * k) (words.drop (2 * k)) = .error e) :
    scanPairs 0 words = .error e := by
  induction k with
  | zero => exact h
  | succ k ih =>
    refine ih (by omega) (fun j hj => hgood j (by omega)) ?_
    rw [drop_pair (by omega), scanPairs, readPair_of_goodPair (hgood k k.lt_succ_self), except_bind_ok]
    exact congrArg (· >>= _) h

theorem scanPairs_eq_error {words : List Word} {k : Nat} (hk : 2 * k + 1 < words.length)
    (hgood : ∀ j, j < k → GoodPair words j) (hbad : ¬ GoodPair words k) :
    scanPairs 0 words = .error (pairFault words k) := by
  refine scanPairs_eq_error_of_drop (by omega) hgood ?_
  rw [drop_pair hk, scanPairs, readPair_of_not_goodPair hbad, except_bind_error]

/-- A failure of the scan of `RLE.DEC` behind good pairs that fit is the failure of the whole scan (R166). -/
theorem scanExpansion_eq_error_of_drop {smax : Nat} {words : List Word} {e : Raise} {k : Nat}
    (hk : 2 * k ≤ words.length) (hgood : ∀ j, j < k → GoodPair words j) (hfits : totalOfPairs words k ≤ smax)
    (h : scanExpansion smax (2 * k) (totalOfPairs words k) (words.drop (2 * k)) = .error e) :
    scanExpansion smax 0 0 words = .error e := by
  induction k with
  | zero => exact h
  | succ k ih =>
    rw [totalOfPairs_succ] at hfits h
    refine ih (by omega) (fun j hj => hgood j (by omega)) (by omega) ?_
    rw [drop_pair (by omega), scanExpansion, readPair_of_goodPair (hgood k k.lt_succ_self), except_bind_ok,
      if_neg hfits.not_gt]
    exact congrArg (· >>= _) h

theorem scanExpansion_eq_error_of_bad {smax : Nat} {words : List Word} {k : Nat} (hk : 2 * k + 1 < words.length)
    (hgood : ∀ j, j < k → GoodPair words j) (hfits : totalOfPairs words k ≤ smax) (hbad : ¬ GoodPair words k) :
    scanExpansion smax 0 0 words = .error (pairFault words k) := by
  refine scanExpansion_eq_error_of_drop (by omega) hgood hfits ?_
  rw [drop_pair hk, scanExpansion, readPair_of_not_goodPair hbad, except_bind_error]

theorem scanExpansion_eq_error_of_overflow {smax : Nat} {words : List Word} {k : Nat} (hk : 2 * k + 1 < words.length)
    (hgood : ∀ j, j ≤ k → GoodPair words j) (hfits : totalOfPairs words k ≤ smax)
    (hover : smax < totalOfPairs words (k + 1)) : scanExpansion smax 0 0 words = .error ⟨.seqBounds, 2 * k⟩ := by
  rw [totalOfPairs_succ] at hover
  refine scanExpansion_eq_error_of_drop (by omega) (fun j hj => hgood j hj.le) hfits ?_
  rw [drop_pair hk, scanExpansion, readPair_of_goodPair (hgood k le_rfl), except_bind_ok, if_pos hover]

/-! ### The commands that read it -/

theorem checkPairs_of_even {s : State} (h : s.pairWords.length % 2 = 0) : checkPairs s = scanPairs 0 s.pairWords := by
  rw [length_pairWords] at h
  rw [checkPairs, checkParity_even h, except_bind_ok]

theorem checkExpansion_of_even {s : State} (h : s.pairWords.length % 2 = 0) :
    checkExpansion s = scanExpansion s.params.smax 0 0 s.pairWords := by
  rw [length_pairWords] at h
  rw [checkExpansion, checkParity_even h, except_bind_ok]

/-- Both commands test the parity before anything else (R164, R166). -/
theorem exec_checks_parity (s : State) :
    ∀ i ∈ [Instr.rleDec, .hufBuild], ∃ k, exec i s = finish i s (checkParity s.pairWords.length >>= k) := by
  simp only [List.forall_mem_cons, length_pairWords]
  refine ⟨?_, ?_, List.forall_mem_nil _⟩
  · rw [exec_rleDec, checkExpansion, bind_assoc]
    exact ⟨_, rfl⟩
  · rw [exec_hufBuild, checkPairs, bind_assoc]
    exact ⟨_, rfl⟩

/-- Settles O50: the parity is tested first, and the scan passes the good pairs that fit. -/
theorem pairScanReportsTheFirstFailure : Obligations.PairScanReportsTheFirstFailure := by
  refine fun s => ⟨fun hodd i hi => ?_, fun k heven hk hgood hbad => ?_, fun k heven hk hgood hfits =>
    ⟨fun hbad => ?_, fun hlast hover => ?_⟩⟩
  · obtain ⟨k, hexec⟩ := exec_checks_parity s i hi
    exact faultEntry_of_check_eq_error hexec (checkParity_odd hodd)
  · exact faultEntry_of_check_eq_error (exec_hufBuild s)
      ((checkPairs_of_even heven).trans (scanPairs_eq_error hk hgood hbad))
  · exact faultEntry_of_check_eq_error (exec_rleDec s)
      ((checkExpansion_of_even heven).trans (scanExpansion_eq_error_of_bad hk hgood hfits hbad))
  · have hgood' : ∀ j, j ≤ k → GoodPair s.pairWords j := fun j hj => hj.lt_or_eq.elim (hgood j) fun h => h ▸ hlast
    exact faultEntry_of_check_eq_error (exec_rleDec s)
      ((checkExpansion_of_even heven).trans (scanExpansion_eq_error_of_overflow hk hgood' hfits hover))

/-! ### The symbols of `HUF.PACK` -/

/-- Packing from index `i` on stops at the first symbol without a code (R201). -/
theorem encodeSymbols_eq_error {table : Memory CodeEntry} {i n : Nat} {syms : List Symbol} (hn : n < syms.length)
    (hbefore : ∀ j (hj : j < n), (codeOf table syms[j]).len ≠ 0) (hmissing : (codeOf table syms[n]).len = 0) :
    encodeSymbols table i syms = .error ⟨.missingCode, i + n⟩ := by
  induction syms generalizing i n with
  | nil => exact absurd hn (Nat.not_lt_zero n)
  | cons v syms ih =>
    cases n with
    | zero => exact if_pos hmissing
    | succ n =>
      have hrest := ih (i := i + 1) (Nat.lt_of_succ_lt_succ hn) (fun j hj => hbefore (j + 1) (Nat.succ_lt_succ hj))
        hmissing
      have hfirst : (codeOf table v).len ≠ 0 := hbefore 0 n.succ_pos
      rw [encodeSymbols, if_neg hfirst, hrest, except_bind_error, Nat.add_right_comm, Nat.add_assoc]

/-- Settles O58: the symbols are packed in their order, so the lowest one without a code is met first. -/
theorem hufPackFaultsAtFirstMissingCode : Obligations.HufPackFaultsAtFirstMissingCode := by
  intro s i hi hbefore hmissing
  have herror : encodeSymbols s.code 0 s.symbols = .error ⟨.missingCode, 0 + i⟩ := by
    refine encodeSymbols_eq_error ((length_symbols s).symm ▸ hi) (fun j hj => ?_) ?_
    · rw [getElem_symbols]
      exact hbefore j hj
    · rw [getElem_symbols]
      exact hmissing
  rw [Nat.zero_add] at herror
  exact faultEntry_of_check_eq_error (exec_hufPack s) herror

end Sys2Proof.Machine
end
